-- ==== Sys2Proof/Word.lean ====
section
/-! DEFINITION. The words of the unit: the bit widths the spec fixes (00_scope.md R6, R8; 30_encoding.md R70). -/

namespace Sys2Proof

/-- A byte is 8 bits (R8). -/
abbrev Byte := BitVec 8

/-- A word, and every register value, is 32 bits, unsigned (R8, R52). -/
abbrev Word := BitVec 32

/-- A byte offset in the 0x20-byte window: the ADDR field (R51, R70). -/
abbrev Offset := BitVec 5

/-- The SIZE field of a transaction (R70, R72). -/
abbrev Size := BitVec 2

/-- A transaction's 40-bit descriptor, WE[39] SIZE[38:37] ADDR[36:32] WDATA[31:0] (R70). -/
abbrev Descriptor := BitVec 40

end Sys2Proof
end

