-- ==== Sys2Proof/Config.lean ====
section
/-! DEFINITION. What the platform fixes: BASE, the one open parameter of the unit (00_scope.md R6; 10_state.md R36). -/

namespace Sys2Proof

/-- How many windows of 0x20 bytes lie below this unit's. OPEN in the spec (R6, 92 D3), so nothing
can be proved of its value (assumption 7). -/
opaque Config.baseIndex : Nat

/-- BASE: "the platform's base address of the window, a multiple of 0x20" (R6). Addresses are
natural numbers: the spec fixes no address width (R51). -/
def Config.base : Nat := 0x20 * Config.baseIndex

end Sys2Proof
end

