-- ==== Sys2Proof/Syntax.lean ====
section
/-! DEFINITION. The instructions of the unit are the host's bus transactions (30_encoding.md). One
constructor for each row of spec/opcode_table.json: a mnemonic with three rows (BUSERR_SIZE, BUSERR_ALIGN) has
three constructors. A constructor holds what the rule of its operation lists under "Operands" (assumption 14). -/

namespace Sys2Proof

/-- A decoded transaction (R79, R80; the rule of each operation in 41_operations.md). -/
inductive Instr where
  /-- BUSERR_SIZE, SIZE = 00 (byte). "any WE, ADDR or WDATA" (R129). -/
  | buserrSizeByte (we : Bool) (addr : Offset) (wdata : Word)
  /-- BUSERR_SIZE, SIZE = 01 (halfword) (R129). -/
  | buserrSizeHalf (we : Bool) (addr : Offset) (wdata : Word)
  /-- BUSERR_SIZE, SIZE = 11 (reserved) (R129, R72). -/
  | buserrSizeReserved (we : Bool) (addr : Offset) (wdata : Word)
  /-- BUSERR_ALIGN, ADDR[1:0] = 01; `slot` is ADDR[4:2]. "any WE or WDATA" (R130). -/
  | buserrAlign1 (we : Bool) (slot : BitVec 3) (wdata : Word)
  /-- BUSERR_ALIGN, ADDR[1:0] = 10 (R130). -/
  | buserrAlign2 (we : Bool) (slot : BitVec 3) (wdata : Word)
  /-- BUSERR_ALIGN, ADDR[1:0] = 11 (R130). -/
  | buserrAlign3 (we : Bool) (slot : BitVec 3) (wdata : Word)
  /-- BUSERR_UNMAPPED, ADDR = 0x1C. "any WE or WDATA" (R131). -/
  | buserrUnmapped (we : Bool) (wdata : Word)
  /-- RD_CTRL. Reads take no operand: "Every value of WDATA decodes to the same read" (R74, R120). -/
  | rdCtrl
  /-- RD_STATUS (R123). -/
  | rdStatus
  /-- RD_DATA8 (R121). -/
  | rdData8
  /-- RD_DATA32 (R122). -/
  | rdData32
  /-- RD_EXPECT (R124). -/
  | rdExpect
  /-- RD_RESULT (R125). -/
  | rdResult
  /-- RD_COUNT (R126). -/
  | rdCount
  /-- CTRL_NOP: CTRL written with 0 (R112). -/
  | ctrlNop
  /-- INIT: CTRL written with 1 (R110). -/
  | init
  /-- CHECK: CTRL written with 2 (R111). -/
  | check
  /-- CTRL_ILLEGAL: CTRL written with any other value (R113). -/
  | ctrlIllegal (wdata : Word)
  /-- WR_STATUS: "Operands: WDATA, ignored" (R117). -/
  | wrStatus (wdata : Word)
  /-- FEED8: the operand is the byte WDATA[7:0] (R76, R114). -/
  | feed8 (b : Byte)
  /-- FEED32: the operand is the four bytes of WDATA (R77, R115). -/
  | feed32 (wdata : Word)
  /-- WR_EXPECT: the operand is the whole word (R78, R116). -/
  | wrExpect (wdata : Word)
  /-- WR_RESULT: "Operands: WDATA, ignored" (R118). -/
  | wrResult (wdata : Word)
  /-- WR_COUNT: "Operands: WDATA, ignored" (R119). -/
  | wrCount (wdata : Word)
  deriving DecidableEq, Repr

/-- The transaction's mnemonic as spec/opcode_table.json has it (R79). -/
def Instr.mnemonic : Instr → String
  | .buserrSizeByte _ _ _ => "BUSERR_SIZE"
  | .buserrSizeHalf _ _ _ => "BUSERR_SIZE"
  | .buserrSizeReserved _ _ _ => "BUSERR_SIZE"
  | .buserrAlign1 _ _ _ => "BUSERR_ALIGN"
  | .buserrAlign2 _ _ _ => "BUSERR_ALIGN"
  | .buserrAlign3 _ _ _ => "BUSERR_ALIGN"
  | .buserrUnmapped _ _ => "BUSERR_UNMAPPED"
  | .rdCtrl => "RD_CTRL"
  | .rdStatus => "RD_STATUS"
  | .rdData8 => "RD_DATA8"
  | .rdData32 => "RD_DATA32"
  | .rdExpect => "RD_EXPECT"
  | .rdResult => "RD_RESULT"
  | .rdCount => "RD_COUNT"
  | .ctrlNop => "CTRL_NOP"
  | .init => "INIT"
  | .check => "CHECK"
  | .ctrlIllegal _ => "CTRL_ILLEGAL"
  | .wrStatus _ => "WR_STATUS"
  | .feed8 _ => "FEED8"
  | .feed32 _ => "FEED32"
  | .wrExpect _ => "WR_EXPECT"
  | .wrResult _ => "WR_RESULT"
  | .wrCount _ => "WR_COUNT"

/-- The bus errors (R161 codes 1 to 3). -/
def Instr.isBusError : Instr → Bool
  | .buserrSizeByte _ _ _ | .buserrSizeHalf _ _ _ | .buserrSizeReserved _ _ _ => true
  | .buserrAlign1 _ _ _ | .buserrAlign2 _ _ _ | .buserrAlign3 _ _ _ => true
  | .buserrUnmapped _ _ => true
  | .rdCtrl | .rdStatus | .rdData8 | .rdData32 | .rdExpect | .rdResult | .rdCount => false
  | .ctrlNop | .init | .check | .ctrlIllegal _ => false
  | .wrStatus _ | .feed8 _ | .feed32 _ | .wrExpect _ | .wrResult _ | .wrCount _ => false

/-- The successful reads (R79, test 4). -/
def Instr.isRead : Instr → Bool
  | .rdCtrl | .rdStatus | .rdData8 | .rdData32 | .rdExpect | .rdResult | .rdCount => true
  | .buserrSizeByte _ _ _ | .buserrSizeHalf _ _ _ | .buserrSizeReserved _ _ _ => false
  | .buserrAlign1 _ _ _ | .buserrAlign2 _ _ _ | .buserrAlign3 _ _ _ => false
  | .buserrUnmapped _ _ => false
  | .ctrlNop | .init | .check | .ctrlIllegal _ => false
  | .wrStatus _ | .feed8 _ | .feed32 _ | .wrExpect _ | .wrResult _ | .wrCount _ => false

/-- The transactions that feed the CRC (R114, R115). -/
def Instr.isFeed : Instr → Bool
  | .feed8 _ | .feed32 _ => true
  | .buserrSizeByte _ _ _ | .buserrSizeHalf _ _ _ | .buserrSizeReserved _ _ _ => false
  | .buserrAlign1 _ _ _ | .buserrAlign2 _ _ _ | .buserrAlign3 _ _ _ => false
  | .buserrUnmapped _ _ => false
  | .rdCtrl | .rdStatus | .rdData8 | .rdData32 | .rdExpect | .rdResult | .rdCount => false
  | .ctrlNop | .init | .check | .ctrlIllegal _ => false
  | .wrStatus _ | .wrExpect _ | .wrResult _ | .wrCount _ => false

end Sys2Proof
end

