-- ==== Sys2Proof/WellFormed.lean ====
section
/-! DEFINITION. Which instructions stand for a descriptor: the one restriction on an operand that a
constructor's type does not already carry (30_encoding.md R75, 41_operations.md R113). -/

namespace Sys2Proof

/-- The CTRL words that select a command: NOP, INIT and CHECK (R75). -/
def isCommandWord (w : Word) : Bool := w == 0x00000000#32 || w == 0x00000001#32 || w == 0x00000002#32

/-- CTRL_ILLEGAL carries a WDATA "in 0x00000003..0xFFFFFFFF" (R113); every other constructor's
operands take every value of their type. -/
def Instr.wf : Instr → Bool
  | .ctrlIllegal w => !isCommandWord w
  | .buserrSizeByte _ _ _ | .buserrSizeHalf _ _ _ | .buserrSizeReserved _ _ _ => true
  | .buserrAlign1 _ _ _ | .buserrAlign2 _ _ _ | .buserrAlign3 _ _ _ => true
  | .buserrUnmapped _ _ => true
  | .rdCtrl | .rdStatus | .rdData8 | .rdData32 | .rdExpect | .rdResult | .rdCount => true
  | .ctrlNop | .init | .check => true
  | .wrStatus _ | .feed8 _ | .feed32 _ | .wrExpect _ | .wrResult _ | .wrCount _ => true

end Sys2Proof
end

