-- ==== Sys2Proof/Decode.lean ====
section
/-! DEFINITION. The decoder, total on 40-bit descriptors (30_encoding.md R79), the encoder, and the opcode
table's match and mask rows (R80). -/

namespace Sys2Proof

/-- The seven registers of the window (R28, R73). -/
inductive Reg where
  | ctrl | status | data8 | data32 | expect | result | count
  deriving DecidableEq, Repr

/-- The register of a word slot; slot *k* is offset 4*k*. Slot 7 (offset 0x1C) is reserved (R28, R34, R73). -/
def Reg.ofSlot (slot : BitVec 3) : Option Reg :=
  if slot = 0#3 then some .ctrl
  else if slot = 1#3 then some .status
  else if slot = 2#3 then some .data8
  else if slot = 3#3 then some .data32
  else if slot = 4#3 then some .expect
  else if slot = 5#3 then some .result
  else if slot = 6#3 then some .count
  else none

/-- A register's byte offset in the window (R28). -/
def Reg.offset : Reg → Offset
  | .ctrl => 0x00#5
  | .status => 0x04#5
  | .data8 => 0x08#5
  | .data32 => 0x0C#5
  | .expect => 0x10#5
  | .result => 0x14#5
  | .count => 0x18#5

/-- `WE`, bit 39: 1 = write, 0 = read (R70). -/
def fieldWE (t : Descriptor) : Bool := t.getLsbD 39
/-- `SIZE`, bits 38:37 (R70). -/
def fieldSIZE (t : Descriptor) : Size := t.extractLsb' 37 2
/-- `ADDR`, bits 36:32 (R70). -/
def fieldADDR (t : Descriptor) : Offset := t.extractLsb' 32 5
/-- `WDATA`, bits 31:0 (R70). -/
def fieldWDATA (t : Descriptor) : Word := t.extractLsb' 0 32

/-- The descriptor of four fields (R70). -/
def mkDescriptor (we : Bool) (size : Size) (addr : Offset) (wdata : Word) : Descriptor :=
  BitVec.ofBool we ++ size ++ addr ++ wdata

/-- `ADDR[1:0]` (R73). -/
def addrLow (a : Offset) : BitVec 2 := a.extractLsb' 0 2
/-- `ADDR[4:2]`, the word slot (R28). -/
def addrSlot (a : Offset) : BitVec 3 := a.extractLsb' 2 3

/-- Test 4 of R79: a read, by register. -/
def decodeRead : Reg → Instr
  | .ctrl => .rdCtrl
  | .status => .rdStatus
  | .data8 => .rdData8
  | .data32 => .rdData32
  | .expect => .rdExpect
  | .result => .rdResult
  | .count => .rdCount

/-- Test 5 of R79: a write to CTRL, by the whole word (R75). -/
def decodeCommand (w : Word) : Instr :=
  if w = 0x00000000#32 then .ctrlNop
  else if w = 0x00000001#32 then .init
  else if w = 0x00000002#32 then .check
  else .ctrlIllegal w

/-- Tests 5 and 6 of R79: a write, by register. FEED8 keeps WDATA[7:0] only (R76). -/
def decodeWrite (w : Word) : Reg → Instr
  | .ctrl => decodeCommand w
  | .status => .wrStatus w
  | .data8 => .feed8 (w.extractLsb' 0 8)
  | .data32 => .feed32 w
  | .expect => .wrExpect w
  | .result => .wrResult w
  | .count => .wrCount w

/-- R79 over the four fields, in its order: SIZE, then ALIGN, then UNMAPPED, then the register and the direction. -/
def decodeFields (we : Bool) (size : Size) (addr : Offset) (wdata : Word) : Instr :=
  if size = 0b00#2 then .buserrSizeByte we addr wdata
  else if size = 0b01#2 then .buserrSizeHalf we addr wdata
  else if size = 0b11#2 then .buserrSizeReserved we addr wdata
  else if addrLow addr = 0b01#2 then .buserrAlign1 we (addrSlot addr) wdata
  else if addrLow addr = 0b10#2 then .buserrAlign2 we (addrSlot addr) wdata
  else if addrLow addr = 0b11#2 then .buserrAlign3 we (addrSlot addr) wdata
  else
    match Reg.ofSlot (addrSlot addr) with
    | none => .buserrUnmapped we wdata
    | some r => if we then decodeWrite wdata r else decodeRead r

/-- "Every 40-bit descriptor falls into exactly one class. The decoder is total." (R79) -/
def decode (t : Descriptor) : Instr :=
  decodeFields (fieldWE t) (fieldSIZE t) (fieldADDR t) (fieldWDATA t)

/-- Why a number is no transaction. -/
inductive DecodeError where
  /-- "Every transaction is 40 bits long, and no prefix, extension or variable-length form exists" (R70). -/
  | notFortyBits
  deriving DecidableEq, Repr

/-- A number of any size: a descriptor if it has at most 40 bits, else rejected by name (R70, R79). -/
def decodeNumber (n : Nat) : Except DecodeError Instr :=
  if n < 2 ^ 40 then .ok (decode (BitVec.ofNat 40 n)) else .error .notFortyBits

/-- The descriptor of a table word of `nbits` bits, the bits above being 0 (R70; assumption 18). -/
def tableWord (nbits w : Nat) : Nat := w % 2 ^ nbits

/-- The instruction the decoder reads from a table row's word. -/
def decodeTableWord (nbits w : Nat) : Option Instr :=
  match decodeNumber (tableWord nbits w) with
  | .ok i => some i
  | .error _ => none

/-- The byte offset of a slot and a value of ADDR[1:0] (R73). -/
def mkAddr (slot : BitVec 3) (low : BitVec 2) : Offset := slot ++ low

/-- The descriptor of an aligned word read; "A canonical read descriptor has WDATA = 0" (R74). -/
def encodeRead (r : Reg) : Descriptor := mkDescriptor false 0b10#2 r.offset 0#32

/-- The descriptor of an aligned word write (R70). -/
def encodeWrite (r : Reg) (w : Word) : Descriptor := mkDescriptor true 0b10#2 r.offset w

/-- The descriptor of an instruction: the "Encoding" line of its rule in 41_operations.md. Bits the
unit ignores and the instruction does not hold are 0 (R74, R76). -/
def encode : Instr → Descriptor
  | .buserrSizeByte we a w => mkDescriptor we 0b00#2 a w
  | .buserrSizeHalf we a w => mkDescriptor we 0b01#2 a w
  | .buserrSizeReserved we a w => mkDescriptor we 0b11#2 a w
  | .buserrAlign1 we s w => mkDescriptor we 0b10#2 (mkAddr s 0b01#2) w
  | .buserrAlign2 we s w => mkDescriptor we 0b10#2 (mkAddr s 0b10#2) w
  | .buserrAlign3 we s w => mkDescriptor we 0b10#2 (mkAddr s 0b11#2) w
  | .buserrUnmapped we w => mkDescriptor we 0b10#2 0x1C#5 w
  | .rdCtrl => encodeRead .ctrl
  | .rdStatus => encodeRead .status
  | .rdData8 => encodeRead .data8
  | .rdData32 => encodeRead .data32
  | .rdExpect => encodeRead .expect
  | .rdResult => encodeRead .result
  | .rdCount => encodeRead .count
  | .ctrlNop => encodeWrite .ctrl 0x00000000#32
  | .init => encodeWrite .ctrl 0x00000001#32
  | .check => encodeWrite .ctrl 0x00000002#32
  | .ctrlIllegal w => encodeWrite .ctrl w
  | .wrStatus w => encodeWrite .status w
  | .feed8 b => encodeWrite .data8 (b.setWidth 32)
  | .feed32 w => encodeWrite .data32 w
  | .wrExpect w => encodeWrite .expect w
  | .wrResult w => encodeWrite .result w
  | .wrCount w => encodeWrite .count w

/-- A descriptor with the bits the unit ignores set to 0: WDATA of a legal read (R74), WDATA[31:8] of
a legal DATA8 write (R76). -/
def canonical (t : Descriptor) : Descriptor :=
  match decode t with
  | .rdCtrl | .rdStatus | .rdData8 | .rdData32 | .rdExpect | .rdResult | .rdCount => t &&& 0xFF00000000#40
  | .feed8 _ => t &&& 0xFF000000FF#40
  | .buserrSizeByte _ _ _ | .buserrSizeHalf _ _ _ | .buserrSizeReserved _ _ _ => t
  | .buserrAlign1 _ _ _ | .buserrAlign2 _ _ _ | .buserrAlign3 _ _ _ => t
  | .buserrUnmapped _ _ => t
  | .ctrlNop | .init | .check | .ctrlIllegal _ => t
  | .wrStatus _ | .feed32 _ | .wrExpect _ | .wrResult _ | .wrCount _ => t

/-- One row of spec/opcode_table.json. -/
structure OpcodeRow where
  mnemonic : String
  pattern : Descriptor
  mask : Descriptor
  deriving DecidableEq, Repr

/-- spec/opcode_table.json, row by row in its order, which is the priority order of R80. -/
def opcodeTable : List OpcodeRow :=
  [ ⟨"BUSERR_SIZE", 0x0000000000#40, 0x6000000000#40⟩,
    ⟨"BUSERR_SIZE", 0x2000000000#40, 0x6000000000#40⟩,
    ⟨"BUSERR_SIZE", 0x6000000000#40, 0x6000000000#40⟩,
    ⟨"BUSERR_ALIGN", 0x4100000000#40, 0x6300000000#40⟩,
    ⟨"BUSERR_ALIGN", 0x4200000000#40, 0x6300000000#40⟩,
    ⟨"BUSERR_ALIGN", 0x4300000000#40, 0x6300000000#40⟩,
    ⟨"BUSERR_UNMAPPED", 0x5C00000000#40, 0x7F00000000#40⟩,
    ⟨"RD_CTRL", 0x4000000000#40, 0xFF00000000#40⟩,
    ⟨"RD_STATUS", 0x4400000000#40, 0xFF00000000#40⟩,
    ⟨"RD_DATA8", 0x4800000000#40, 0xFF00000000#40⟩,
    ⟨"RD_DATA32", 0x4C00000000#40, 0xFF00000000#40⟩,
    ⟨"RD_EXPECT", 0x5000000000#40, 0xFF00000000#40⟩,
    ⟨"RD_RESULT", 0x5400000000#40, 0xFF00000000#40⟩,
    ⟨"RD_COUNT", 0x5800000000#40, 0xFF00000000#40⟩,
    ⟨"CTRL_NOP", 0xC000000000#40, 0xFFFFFFFFFF#40⟩,
    ⟨"INIT", 0xC000000001#40, 0xFFFFFFFFFF#40⟩,
    ⟨"CHECK", 0xC000000002#40, 0xFFFFFFFFFF#40⟩,
    ⟨"CTRL_ILLEGAL", 0xC000000000#40, 0xFF00000000#40⟩,
    ⟨"WR_STATUS", 0xC400000000#40, 0xFF00000000#40⟩,
    ⟨"FEED8", 0xC800000000#40, 0xFF00000000#40⟩,
    ⟨"FEED32", 0xCC00000000#40, 0xFF00000000#40⟩,
    ⟨"WR_EXPECT", 0xD000000000#40, 0xFF00000000#40⟩,
    ⟨"WR_RESULT", 0xD400000000#40, 0xFF00000000#40⟩,
    ⟨"WR_COUNT", 0xD800000000#40, 0xFF00000000#40⟩ ]

/-- A row matches a descriptor that agrees with its pattern under its mask (R80). -/
def OpcodeRow.holds (row : OpcodeRow) (t : Descriptor) : Bool := t &&& row.mask == row.pattern

/-- "Where two rows match one descriptor, the row of the earlier test in rule R79 wins" (R80): the
first row of the table that matches. -/
def tableRow (t : Descriptor) : Option OpcodeRow := opcodeTable.find? (fun row => row.holds t)

/-- The row of the table that an instruction's constructor stands for. -/
def Instr.row : Instr → Option OpcodeRow
  | .buserrSizeByte _ _ _ => opcodeTable[0]?
  | .buserrSizeHalf _ _ _ => opcodeTable[1]?
  | .buserrSizeReserved _ _ _ => opcodeTable[2]?
  | .buserrAlign1 _ _ _ => opcodeTable[3]?
  | .buserrAlign2 _ _ _ => opcodeTable[4]?
  | .buserrAlign3 _ _ _ => opcodeTable[5]?
  | .buserrUnmapped _ _ => opcodeTable[6]?
  | .rdCtrl => opcodeTable[7]?
  | .rdStatus => opcodeTable[8]?
  | .rdData8 => opcodeTable[9]?
  | .rdData32 => opcodeTable[10]?
  | .rdExpect => opcodeTable[11]?
  | .rdResult => opcodeTable[12]?
  | .rdCount => opcodeTable[13]?
  | .ctrlNop => opcodeTable[14]?
  | .init => opcodeTable[15]?
  | .check => opcodeTable[16]?
  | .ctrlIllegal _ => opcodeTable[17]?
  | .wrStatus _ => opcodeTable[18]?
  | .feed8 _ => opcodeTable[19]?
  | .feed32 _ => opcodeTable[20]?
  | .wrExpect _ => opcodeTable[21]?
  | .wrResult _ => opcodeTable[22]?
  | .wrCount _ => opcodeTable[23]?

end Sys2Proof
end

