-- ==== Sys2Proof/Machine/Crc.lean ====
section
/-! DEFINITION. The CRC-32/ISO-HDLC core: parameters, update function, and the CRC of a stream (40_crc_core.md). -/

namespace Sys2Proof.Machine

/-- The generator polynomial, normal form (R90). -/
def crcPoly : Word := 0x04C11DB7#32

/-- `POLY_R`, the polynomial as used in the reflected shift (R90). -/
def crcPolyR : Word := 0xEDB88320#32

/-- The initial value (R90), S after INIT and reset (R21, R110). -/
def crcInitial : Word := 0xFFFFFFFF#32

/-- The final XOR (R90). -/
def crcFinalXor : Word := 0xFFFFFFFF#32

/-- The residue (R90): S after a message followed by its own CRC appended little-endian. -/
def crcResidue : Word := 0xDEBB20E3#32

/-- One of the eight shift steps of R91. -/
def crcShift (s : Word) : Word :=
  if s.getLsbD 0 then (s >>> 1) ^^^ crcPolyR else s >>> 1

/-- `n` shift steps (R91). -/
def crcShifts : Nat → Word → Word
  | 0, s => s
  | n + 1, s => crcShifts n (crcShift s)

/-- `crc_update_byte` (R91): the byte is XORed into the low byte, then eight shift steps. -/
def crcUpdateByte (s : Word) (b : Byte) : Word := crcShifts 8 (s ^^^ b.setWidth 32)

/-- The table `T[i] = crc_update_byte(0, i)` (R93). -/
def crcTable (i : Byte) : Word := crcUpdateByte 0#32 i

/-- The table form of the update function (R93). -/
def crcUpdateByteByTable (s : Word) (b : Byte) : Word :=
  (s >>> 8) ^^^ crcTable ((s ^^^ b.setWidth 32).setWidth 8)

/-- `fold(crc_update_byte, s, m)`, `m[0]` first (R94, R96). -/
def crcFold (s : Word) (m : List Byte) : Word := m.foldl crcUpdateByte s

/-- `state(m)` (R94). -/
def crcState (m : List Byte) : Word := crcFold crcInitial m

/-- `crc(m)` (R94). -/
def crc (m : List Byte) : Word := crcState m ^^^ crcFinalXor

end Sys2Proof.Machine
end

