-- ==== Sys2Proof/Machine/State.lean ====
section
/-! DEFINITION. The state: the unit's own (10_state.md R35), the last response (30_encoding.md R71), and two
fields of the model: the host's events not yet taken and the record of the host run's faults. Plain data. -/

namespace Sys2Proof.Machine

/-- What counts as a fault of the host's run (92_eei_decisions.md D25, 60_exceptions.md R161 codes 1 to 4). A
step RECORDS these in `State.faults` and goes on ("recorded, never cleared, never final", D25; "After any
error the unit is immediately ready for the next transaction", R168). No meaning and no step stops with one
(assumption 6). -/
inductive Fault where
  /-- Code 1: SIZE was not `10` (R129). Recorded by the three BUSERR_SIZE meanings. Safe: the state is as R160 says. -/
  | busErrSize
  /-- Code 2: a word access with ADDR[1:0] not `00` (R130). Recorded by the three BUSERR_ALIGN meanings. Safe. -/
  | busErrAlign
  /-- Code 3: a word access at offset 0x1C (R131). Recorded by the BUSERR_UNMAPPED meaning. Safe. -/
  | busErrUnmapped
  /-- Code 4: CTRL written with a value other than 0, 1, 2 (R113, R162). Recorded by the CTRL_ILLEGAL meaning. Safe. -/
  | cmdErr
  deriving DecidableEq, Repr

/-- Why the model would give a transaction no meaning. -/
inductive Refusal where
  /-- An arm of exec without a meaning. No arm of this model answers it: every row of the opcode table has its meaning. Safe. -/
  | notModelled (mnemonic : String)
  deriving DecidableEq, Repr

/-- What the host's side presents to the unit, one event a step (00_scope.md R11). -/
inductive HostEvent where
  /-- A transaction on the unit's port, as its 40-bit descriptor (R70). -/
  | transaction (t : Descriptor)
  /-- A bus access at an absolute address; it reaches the unit only inside the window (R51). -/
  | access (we : Bool) (size : Size) (address : Nat) (wdata : Word)
  /-- The reset input applied, between two transactions (R180). -/
  | reset
  deriving DecidableEq, Repr

/-- What of a host event arrives at the unit. -/
inductive Delivery where
  /-- A transaction arrives. -/
  | transaction (t : Descriptor)
  /-- The reset input is applied. -/
  | reset
  /-- "Addresses outside BASE .. BASE + 0x1F do not reach the unit" (R51). -/
  | notForUnit
  deriving DecidableEq, Repr

/-- The unit's complete state, the tuple of R35. STATUS[31:4] has no storage (R24). -/
structure UnitState where
  /-- S, the running CRC state, before the final XOR (R21). -/
  regS : Word
  /-- COUNT, the bytes fed since the last INIT or reset, modulo 2^32 (R22). -/
  count : Word
  /-- EXPECT, the value CHECK compares against (R23). -/
  expect : Word
  /-- STATUS.DONE, bit 0 (R24). -/
  done : Bool
  /-- STATUS.MATCH, bit 1 (R24, R26). -/
  matched : Bool
  /-- STATUS.CMDERR, bit 2, sticky (R24, R27). -/
  cmdErr : Bool
  /-- STATUS.CNTOVF, bit 3, sticky (R24, R27). -/
  cntOvf : Bool
  deriving DecidableEq, Repr

/-- The unit's reply to a transaction, `(rdata[31:0], err[0])` (R71). -/
structure Response where
  rdata : Word
  err : Bool
  deriving DecidableEq, Repr

/-- The machine's state. -/
structure State where
  /-- The unit's own state (R35). -/
  unit : UnitState
  /-- The response to the last transaction, none before the first (R70, R71; assumption 4). -/
  response : Option Response
  /-- The MODEL's field: the host's events not yet taken, oldest first (R11, R60; assumption 2). -/
  pending : List HostEvent
  /-- The MODEL's field: the faults of the host's run, oldest first (D25; assumption 5). -/
  faults : List Fault
  deriving DecidableEq, Repr

/-- "After reset, every piece of state has a specified value. None is unspecified" (R37, R180). -/
def UnitState.reset : UnitState where
  regS := 0xFFFFFFFF#32
  count := 0x00000000#32
  expect := 0x00000000#32
  done := false
  matched := false
  cmdErr := false
  cntOvf := false

/-- The machine right after reset (R37): no transaction has been answered, none waits, no fault is recorded. -/
def State.reset : State where
  unit := UnitState.reset
  response := none
  pending := []
  faults := []

end Sys2Proof.Machine
end

