-- ==== Sys2Proof/Machine/Flags.lean ====
section
/-! DEFINITION. RESULT, the STATUS word and every flag computation (10_state.md R24 to R27, R33). -/

namespace Sys2Proof.Machine

/-- `RESULT = S ^ 0xFFFFFFFF` (R33). -/
def UnitState.result (u : UnitState) : Word := u.regS ^^^ crcFinalXor

/-- One flag at its weight in STATUS (R24). -/
def flagBit (b : Bool) (i : Nat) : Word := if b then BitVec.twoPow 32 i else 0#32

/-- `zext_32(CNTOVF*8 + CMDERR*4 + MATCH*2 + DONE)`; bits 31:4 read 0 (R24, R123). -/
def UnitState.status (u : UnitState) : Word :=
  flagBit u.cntOvf 3 ||| flagBit u.cmdErr 2 ||| flagBit u.matched 1 ||| flagBit u.done 0

/-- DONE and MATCH cleared: a feed or an EXPECT write ends the standing of the last CHECK (R24, R114 to R116). -/
def UnitState.clearCheck (u : UnitState) : UnitState := { u with done := false, matched := false }

/-- The comparison of CHECK, `(S ^ 0xFFFFFFFF) == EXPECT` (R111). -/
def UnitState.compare (u : UnitState) : Bool := u.result == u.expect

/-- CNTOVF after one more byte: "if COUNT == 0xFFFFFFFF: STATUS.CNTOVF <- 1" (R92), sticky (R27). -/
def UnitState.cntOvfNext (u : UnitState) : Bool := u.cntOvf || u.count == 0xFFFFFFFF#32

end Sys2Proof.Machine
end

