-- ==== Sys2Proof/Machine/Operands.lean ====
section
/-! DEFINITION. The operand forms: the big-endian readings of R9 and the operands of DATA8 and DATA32 (R76, R77). -/

namespace Sys2Proof.Machine

/-- `BE32(b0,b1,b2,b3)`, the big-endian reading of four bytes (R9). -/
def be32 (b0 b1 b2 b3 : Byte) : Word := b0 ++ b1 ++ b2 ++ b3

/-- `BEBYTES(w) = (w[31:24], w[23:16], w[15:8], w[7:0])` (R9), the DATA32 operand, in feeding order (R77). -/
def beBytes (w : Word) : List Byte :=
  [w.extractLsb' 24 8, w.extractLsb' 16 8, w.extractLsb' 8 8, w.extractLsb' 0 8]

/-- The four bytes of a word, least significant first: the order in which the residue of R90 appends a crc. -/
def leBytes (w : Word) : List Byte :=
  [w.extractLsb' 0 8, w.extractLsb' 8 8, w.extractLsb' 16 8, w.extractLsb' 24 8]

/-- `zext_32(b)` (R8). -/
def zext32 (b : Byte) : Word := b.setWidth 32

end Sys2Proof.Machine
end

