-- ==== Sys2Proof/Machine/Ops.lean ====
section
/-! DEFINITION. The named operations the meanings share: feeding, the commands, the register reads, the
responses, the bus error, reset, and taking the next host event. -/

namespace Sys2Proof.Machine

/-! ## The unit's registers -/

/-- `Feed(b)` (R92): S advances by the byte, CNTOVF records a wrap, COUNT adds 1 modulo 2^32. -/
def UnitState.feed (u : UnitState) (b : Byte) : UnitState :=
  { u with regS := crcUpdateByte u.regS b, cntOvf := u.cntOvfNext, count := u.count + 1#32 }

/-- `Feed` of each byte of a sequence, first byte first (R92, R96). -/
def UnitState.feedAll (u : UnitState) (bs : List Byte) : UnitState := bs.foldl UnitState.feed u

/-- INIT: a new computation; EXPECT is kept (R110). -/
def UnitState.initialise (u : UnitState) : UnitState :=
  { u with regS := crcInitial, count := 0#32, done := false, matched := false, cmdErr := false, cntOvf := false }

/-- CHECK: DONE is set and MATCH takes the comparison (R111). -/
def UnitState.checkResult (u : UnitState) : UnitState := { u with done := true, matched := u.compare }

/-- An illegal command sets CMDERR and nothing else (R113). -/
def UnitState.flagIllegalCommand (u : UnitState) : UnitState := { u with cmdErr := true }

/-- EXPECT is written; the last CHECK no longer stands (R116). -/
def UnitState.writeExpect (u : UnitState) (w : Word) : UnitState := { u with expect := w }.clearCheck

/-- What a word read of a register returns (R28, R79): write-only ports read 0. -/
def UnitState.read (u : UnitState) : Reg → Word
  | .ctrl => 0x00000000#32
  | .status => u.status
  | .data8 => 0x00000000#32
  | .data32 => 0x00000000#32
  | .expect => u.expect
  | .result => u.result
  | .count => u.count

/-! ## Responses and the bus error -/

/-- `respond(rdata, err)` (R10, R71). -/
def State.respond (s : State) (rdata : Word) (err : Bool) : State := { s with response := some ⟨rdata, err⟩ }

/-- A successful write: "rdata = 0x00000000 and err = 0" (R71), with the unit's new state. -/
def State.ackWrite (s : State) (u : UnitState) : State := { s with unit := u }.respond 0x00000000#32 false

/-- A successful read: the register's value and err = 0, no state change (R56, R71). -/
def State.ackRead (s : State) (r : Reg) : State := s.respond (s.unit.read r) false

/-- A fault of the host's run is recorded (D25). -/
def State.recordFault (s : State) (f : Fault) : State := { s with faults := s.faults ++ [f] }

/-- `raise BusError(reason)`: "the response (rdata = 0x00000000, err = 1). It changes no state of the
unit" (R10, R160). The reason is the model's record only (R161). -/
def State.raiseBusError (s : State) (f : Fault) : State := (s.respond 0x00000000#32 true).recordFault f

/-! ## Reset and the host's events -/

/-- The reset input: every piece of the unit's state takes its value of R37 (R180). -/
def State.applyReset (s : State) : State := { s with unit := UnitState.reset }

/-- The window's size in bytes (R6). -/
def windowSize : Nat := 0x20

/-- The byte offset of an absolute address in the window, none outside `BASE .. BASE + 0x1F` (R51). -/
def windowOffset (address : Nat) : Option Offset :=
  if Config.base ≤ address ∧ address < Config.base + windowSize then
    some (BitVec.ofNat 5 (address - Config.base))
  else none

/-- What of a host event arrives at the unit (R51, R180). -/
def HostEvent.deliver : HostEvent → Delivery
  | .transaction t => .transaction t
  | .access we size address wdata =>
    match windowOffset address with
    | some off => .transaction (mkDescriptor we size off wdata)
    | none => .notForUnit
  | .reset => .reset

/-- The oldest event not yet taken, and the state without it: "one at a time, in the order it receives them" (R60). -/
def State.takeEvent (s : State) : Option (HostEvent × State) :=
  match s.pending with
  | [] => none
  | e :: rest => some (e, { s with pending := rest })

/-- The host issues further events: any it likes, at any time (R128, R151). -/
def State.submit (s : State) (es : List HostEvent) : State := { s with pending := s.pending ++ es }

end Sys2Proof.Machine
end

