-- ==== Sys2Proof/Machine/BusErrors.lean ====
section
/-! DEFINITION. The bus errors (41_operations.md R129 to R131): the response is (0, 1) and no state of the unit
changes, whatever WE, ADDR and WDATA are (60_exceptions.md R160). The unit goes on (R168). -/

namespace Sys2Proof.Machine

/-- BUSERR_SIZE, SIZE = 00 (R129). -/
def execBuserrSizeByte (_we : Bool) (_addr : Offset) (_wdata : Word) (s : State) : Host.Outcome State Fault Refusal :=
  .next (s.raiseBusError .busErrSize)

/-- BUSERR_SIZE, SIZE = 01 (R129). -/
def execBuserrSizeHalf (_we : Bool) (_addr : Offset) (_wdata : Word) (s : State) : Host.Outcome State Fault Refusal :=
  .next (s.raiseBusError .busErrSize)

/-- BUSERR_SIZE, SIZE = 11 (R129). -/
def execBuserrSizeReserved (_we : Bool) (_addr : Offset) (_wdata : Word) (s : State) : Host.Outcome State Fault Refusal :=
  .next (s.raiseBusError .busErrSize)

/-- BUSERR_ALIGN, ADDR[1:0] = 01 (R130). -/
def execBuserrAlign1 (_we : Bool) (_slot : BitVec 3) (_wdata : Word) (s : State) : Host.Outcome State Fault Refusal :=
  .next (s.raiseBusError .busErrAlign)

/-- BUSERR_ALIGN, ADDR[1:0] = 10 (R130). -/
def execBuserrAlign2 (_we : Bool) (_slot : BitVec 3) (_wdata : Word) (s : State) : Host.Outcome State Fault Refusal :=
  .next (s.raiseBusError .busErrAlign)

/-- BUSERR_ALIGN, ADDR[1:0] = 11 (R130). -/
def execBuserrAlign3 (_we : Bool) (_slot : BitVec 3) (_wdata : Word) (s : State) : Host.Outcome State Fault Refusal :=
  .next (s.raiseBusError .busErrAlign)

/-- BUSERR_UNMAPPED, ADDR = 0x1C (R131): "a read and a write at 0x1C behave alike". -/
def execBuserrUnmapped (_we : Bool) (_wdata : Word) (s : State) : Host.Outcome State Fault Refusal :=
  .next (s.raiseBusError .busErrUnmapped)

end Sys2Proof.Machine
end

