-- ==== Sys2Proof/Machine/Commands.lean ====
section
/-! DEFINITION. The commands, writes to CTRL (41_operations.md R110 to R113). -/

namespace Sys2Proof.Machine

/-- CTRL_NOP (R112): "No state changes." -/
def execCtrlNop (s : State) : Host.Outcome State Fault Refusal := .next (s.ackWrite s.unit)

/-- INIT (R110). -/
def execInit (s : State) : Host.Outcome State Fault Refusal := .next (s.ackWrite s.unit.initialise)

/-- CHECK (R111). -/
def execCheck (s : State) : Host.Outcome State Fault Refusal := .next (s.ackWrite s.unit.checkResult)

/-- CTRL_ILLEGAL (R113): CMDERR is set, `err = 0` (R162); the host's run records the fault (D25). -/
def execCtrlIllegal (_wdata : Word) (s : State) : Host.Outcome State Fault Refusal :=
  .next ((s.ackWrite s.unit.flagIllegalCommand).recordFault .cmdErr)

end Sys2Proof.Machine
end

