-- ==== Sys2Proof/Machine/Reads.lean ====
section
/-! DEFINITION. The reads (41_operations.md R120 to R126): none has a side effect (20_memory.md R56). -/

namespace Sys2Proof.Machine

/-- RD_CTRL (R120). -/
def execRdCtrl (s : State) : Host.Outcome State Fault Refusal := .next (s.ackRead .ctrl)

/-- RD_DATA8 (R121): "Reading does not feed." -/
def execRdData8 (s : State) : Host.Outcome State Fault Refusal := .next (s.ackRead .data8)

/-- RD_DATA32 (R122). -/
def execRdData32 (s : State) : Host.Outcome State Fault Refusal := .next (s.ackRead .data32)

/-- RD_STATUS (R123): "reading does not clear any flag". -/
def execRdStatus (s : State) : Host.Outcome State Fault Refusal := .next (s.ackRead .status)

/-- RD_EXPECT (R124). -/
def execRdExpect (s : State) : Host.Outcome State Fault Refusal := .next (s.ackRead .expect)

/-- RD_RESULT (R125): "S is not finalised or reset by the read." -/
def execRdResult (s : State) : Host.Outcome State Fault Refusal := .next (s.ackRead .result)

/-- RD_COUNT (R126). -/
def execRdCount (s : State) : Host.Outcome State Fault Refusal := .next (s.ackRead .count)

end Sys2Proof.Machine
end

