-- ==== Sys2Proof/Machine/Writes.lean ====
section
/-! DEFINITION. The feeds, EXPECT, and the ignored writes (41_operations.md R114 to R119). -/

namespace Sys2Proof.Machine

/-- FEED8 (R114): `Feed(WDATA[7:0])`, then DONE and MATCH are cleared. -/
def execFeed8 (b : Byte) (s : State) : Host.Outcome State Fault Refusal :=
  .next (s.ackWrite (s.unit.feed b).clearCheck)

/-- FEED32 (R115): the four bytes of `BEBYTES(WDATA)` in one atomic step (R57), then DONE and MATCH are cleared. -/
def execFeed32 (wdata : Word) (s : State) : Host.Outcome State Fault Refusal :=
  .next (s.ackWrite (s.unit.feedAll (beBytes wdata)).clearCheck)

/-- WR_EXPECT (R116). -/
def execWrExpect (wdata : Word) (s : State) : Host.Outcome State Fault Refusal :=
  .next (s.ackWrite (s.unit.writeExpect wdata))

/-- WR_STATUS (R117): ignored; "STATUS is not write-one-to-clear". -/
def execWrStatus (_wdata : Word) (s : State) : Host.Outcome State Fault Refusal := .next (s.ackWrite s.unit)

/-- WR_RESULT (R118): ignored; "In particular S is not written". -/
def execWrResult (_wdata : Word) (s : State) : Host.Outcome State Fault Refusal := .next (s.ackWrite s.unit)

/-- WR_COUNT (R119): ignored. -/
def execWrCount (_wdata : Word) (s : State) : Host.Outcome State Fault Refusal := .next (s.ackWrite s.unit)

end Sys2Proof.Machine
end

