-- ==== Sys2Proof/Machine/Dispatch.lean ====
section
/-! DEFINITION. One arm per transaction class (30_encoding.md R79), each one call of its meaning. -/

namespace Sys2Proof.Machine

def exec (i : Instr) (s : State) : Host.Outcome State Fault Refusal :=
  match i with
  | .buserrSizeByte we addr wdata => Sys2Proof.Machine.execBuserrSizeByte we addr wdata s
  | .buserrSizeHalf we addr wdata => Sys2Proof.Machine.execBuserrSizeHalf we addr wdata s
  | .buserrSizeReserved we addr wdata => Sys2Proof.Machine.execBuserrSizeReserved we addr wdata s
  | .buserrAlign1 we slot wdata => Sys2Proof.Machine.execBuserrAlign1 we slot wdata s
  | .buserrAlign2 we slot wdata => Sys2Proof.Machine.execBuserrAlign2 we slot wdata s
  | .buserrAlign3 we slot wdata => Sys2Proof.Machine.execBuserrAlign3 we slot wdata s
  | .buserrUnmapped we wdata => Sys2Proof.Machine.execBuserrUnmapped we wdata s
  | .rdCtrl => Sys2Proof.Machine.execRdCtrl s
  | .rdStatus => Sys2Proof.Machine.execRdStatus s
  | .rdData8 => Sys2Proof.Machine.execRdData8 s
  | .rdData32 => Sys2Proof.Machine.execRdData32 s
  | .rdExpect => Sys2Proof.Machine.execRdExpect s
  | .rdResult => Sys2Proof.Machine.execRdResult s
  | .rdCount => Sys2Proof.Machine.execRdCount s
  | .ctrlNop => Sys2Proof.Machine.execCtrlNop s
  | .init => Sys2Proof.Machine.execInit s
  | .check => Sys2Proof.Machine.execCheck s
  | .ctrlIllegal wdata => Sys2Proof.Machine.execCtrlIllegal wdata s
  | .wrStatus wdata => Sys2Proof.Machine.execWrStatus wdata s
  | .feed8 b => Sys2Proof.Machine.execFeed8 b s
  | .feed32 wdata => Sys2Proof.Machine.execFeed32 wdata s
  | .wrExpect wdata => Sys2Proof.Machine.execWrExpect wdata s
  | .wrResult wdata => Sys2Proof.Machine.execWrResult wdata s
  | .wrCount wdata => Sys2Proof.Machine.execWrCount wdata s

end Sys2Proof.Machine
end

