-- ==== Sys2Proof/Machine/Step.lean ====
section
/-! DEFINITION. One step: the oldest host event is taken and what of it arrives at the unit takes effect
(00_scope.md R11; 70_reset_and_hazards.md R180). -/

namespace Sys2Proof.Machine

/-- "A step of the unit is one transaction, applied atomically"; reset is the only other event that
changes state (R11). With no event waiting nothing happens: "The unit has no deferred or background
activity and no autonomous step" (R127; assumption 3). -/
def step (s : State) : Host.Outcome State Fault Refusal :=
  match s.takeEvent with
  | none => .next s
  | some (e, s1) =>
    match e.deliver with
    | .transaction t => exec (decode t) s1
    | .reset => .next s1.applyReset
    | .notForUnit => .next s1

/-- `n` steps, one host event each, in the order the unit receives them (R60). -/
def run : Nat → State → Host.Outcome State Fault Refusal
  | 0, s => .next s
  | n + 1, s =>
    match step s with
    | .next t => run n t
    | .fault f => .fault f
    | .refused r => .refused r

/-- The state with the transaction of a table word waiting as the next event: the host issues it
(assumption 2). -/
def State.withFetchWord (s : State) (nbits w : Nat) : State :=
  { s with pending := .transaction (BitVec.ofNat 40 (tableWord nbits w)) :: s.pending }

end Sys2Proof.Machine
end

