-- ==== Sys2Proof/Machine/Asm.lean ====
section
/-! DEFINITION. The spec's notation for a host's transactions (30_encoding.md R83) and the pseudo-operations with
their exact expansions (R84, R85). -/

namespace Sys2Proof.Machine

/-- The width suffixes: none, `.B`, `.H`, `.X` (R83). -/
inductive Width where
  | word | byte | half | reserved
  deriving DecidableEq, Repr

/-- A register by name, or `@<offset>` for a raw offset (R83). -/
inductive Target where
  | reg (r : Reg)
  | raw (off : Offset)
  deriving DecidableEq, Repr

/-- `RD <reg>` and `WR <reg>, <value>` (R83). -/
inductive AsmOp where
  | rd (w : Width) (target : Target)
  | wr (w : Width) (target : Target) (value : Word)
  deriving DecidableEq, Repr

/-- The expected response after `->`: a value, or `ERR` for a bus error (R83). -/
inductive Expected where
  | data (v : Word)
  | err
  deriving DecidableEq, Repr

/-- The four bytes of a chunk's type code, in file order (42_chunk_protocol.md R140); any value (R149). -/
structure ChunkType where
  b0 : Byte
  b1 : Byte
  b2 : Byte
  b3 : Byte
  deriving DecidableEq, Repr

/-- The type's bytes in file order (R142). -/
def ChunkType.bytes (ty : ChunkType) : List Byte := [ty.b0, ty.b1, ty.b2, ty.b3]

/-- The pseudo-operations (R84, R85). -/
inductive PseudoOp where
  | init
  | check
  | nop
  | expect (v : Word)
  | feed (bs : List Byte)
  | feedStr (text : List Char)
  | chunkCrc (ty : ChunkType) (data : List Byte)
  | chunkCheck (ty : ChunkType) (data : List Byte) (crc : Word)
  deriving DecidableEq, Repr

/-- The SIZE a suffix selects (R83). -/
def Width.size : Width → Size
  | .word => 0b10#2
  | .byte => 0b00#2
  | .half => 0b01#2
  | .reserved => 0b11#2

/-- The offset a target names (R28, R83). -/
def Target.offset : Target → Offset
  | .reg r => r.offset
  | .raw off => off

/-- "Each line assembles to one descriptor per rule R70" (R83). -/
def AsmOp.assemble : AsmOp → Descriptor
  | .rd w t => mkDescriptor false w.size t.offset 0#32
  | .wr w t v => mkDescriptor true w.size t.offset v

/-- Whether a response is the expected one (R71, R83). -/
def Expected.meets : Expected → Response → Bool
  | .data v, r => r.rdata == v && !r.err
  | .err, r => r.err

/-- A word write to a register by name. -/
def wrReg (r : Reg) (v : Word) : AsmOp := .wr .word (.reg r) v

/-- A word read of a register by name. -/
def rdReg (r : Reg) : AsmOp := .rd .word (.reg r)

/-- `FEED`: DATA32 writes of four bytes while four remain, then a DATA8 write of each byte left (R84). -/
def feedOps : List Byte → List AsmOp
  | b0 :: b1 :: b2 :: b3 :: rest => wrReg .data32 (be32 b0 b1 b2 b3) :: feedOps rest
  | rest => rest.map fun b => wrReg .data8 (zext32 b)

/-- The UTF-8 bytes of a character (PRESUMED: the UTF-8 code itself, which R84 only names; assumption 17). -/
def utf8Char (c : Char) : List Byte :=
  let n := c.toNat
  let last := BitVec.ofNat 8 (0x80 + n % 0x40)
  let mid := BitVec.ofNat 8 (0x80 + n / 0x40 % 0x40)
  if n < 0x80 then [BitVec.ofNat 8 n]
  else if n < 0x800 then [BitVec.ofNat 8 (0xC0 + n / 0x40), last]
  else if n < 0x10000 then [BitVec.ofNat 8 (0xE0 + n / 0x1000), mid, last]
  else [BitVec.ofNat 8 (0xF0 + n / 0x40000), BitVec.ofNat 8 (0x80 + n / 0x1000 % 0x40), mid, last]

/-- "the text's bytes in order (UTF-8)" (R84). -/
def utf8 (text : List Char) : List Byte := text.flatMap utf8Char

/-- The exact expansions of R84 and R85. -/
def PseudoOp.expand : PseudoOp → List AsmOp
  | .init => [wrReg .ctrl 0x00000001#32]
  | .check => [wrReg .ctrl 0x00000002#32]
  | .nop => [wrReg .ctrl 0x00000000#32]
  | .expect v => [wrReg .expect v]
  | .feed bs => feedOps bs
  | .feedStr text => feedOps (utf8 text)
  | .chunkCrc ty data => wrReg .ctrl 0x00000001#32 :: (feedOps (ty.bytes ++ data) ++ [rdReg .result])
  | .chunkCheck ty data crc =>
    wrReg .ctrl 0x00000001#32 ::
      (feedOps (ty.bytes ++ data) ++ [wrReg .expect crc, wrReg .ctrl 0x00000002#32, rdReg .status])

/-- The host issues operations as transactions on the unit's port (R70, R83). -/
def hostEvents (ops : List AsmOp) : List HostEvent := ops.map fun op => .transaction op.assemble

end Sys2Proof.Machine
end

