-- ==== Sys2Proof/Machine/AsmText.lean ====
section
/-! DEFINITION. The text of the spec's assembler syntax (30_encoding.md R83 to R85): one statement a line. A text is
a list of characters. The points of the notation that the spec leaves open are in assumptions 16, 19 and 20. -/

namespace Sys2Proof.Machine

/-- The tokens of a line. -/
inductive Token where
  | word (cs : List Char)
  | text (cs : List Char)
  | comma
  | arrow
  deriving DecidableEq, Repr

/-- Why a line is no statement of R83 to R85. -/
inductive AsmError where
  /-- A quotation mark is not closed. -/
  | openText
  /-- A number is malformed or does not fit its place. -/
  | badNumber
  /-- No register of R83 has that name. -/
  | unknownTarget
  /-- No operation of R83 to R85 has that name. -/
  | unknownOperation
  /-- The operands do not have the form of R83 to R85. -/
  | badOperands
  deriving DecidableEq, Repr

/-- One line: a transaction with its expected response, or a pseudo-operation (R83 to R85). -/
inductive Statement where
  | txn (op : AsmOp) (expected : Option Expected)
  | pseudo (p : PseudoOp)
  deriving DecidableEq, Repr

/-- The word read so far, which stands reversed, becomes a token. -/
def flushWord (cur : List Char) (rest : List Token) : List Token :=
  if cur.isEmpty then rest else .word cur.reverse :: rest

/-- The tokens of a line; `quote` holds the text read so far inside quotation marks, reversed. A `;`
outside them starts a comment (R83). -/
def lex (quote : Option (List Char)) (cur : List Char) : List Char → Except AsmError (List Token)
  | [] =>
    match quote with
    | none => .ok (flushWord cur [])
    | some _ => .error .openText
  | c :: cs =>
    match quote with
    | some q =>
      if c = '"' then (lex none [] cs).map fun ts => .text q.reverse :: ts else lex (some (c :: q)) [] cs
    | none =>
      if c = ';' then .ok (flushWord cur [])
      else if c = '"' then (lex (some []) [] cs).map (flushWord cur)
      else if c = ' ' ∨ c = '\t' then (lex none [] cs).map (flushWord cur)
      else if c = ',' then (lex none [] cs).map fun ts => flushWord cur (.comma :: ts)
      else if c = '>' ∧ cur = ['-'] then (lex none [] cs).map fun ts => .arrow :: ts
      else lex none (c :: cur) cs

/-- The value of a character among `count` consecutive digits, of which `first` has the value `least`. -/
def digitFrom (first : Char) (count least : Nat) (c : Char) : Option Nat :=
  if c.toNat < first.toNat then none
  else
    let k := c.toNat - first.toNat
    if k < count then some (least + k) else none

/-- A digit's value: the ten decimal digits, and the six hexadecimal ones in either case (R8, R83; assumption 16). -/
def digit (c : Char) : Option Nat :=
  ((digitFrom '0' 10 0 c).orElse fun _ => digitFrom 'A' 6 10 c).orElse fun _ => digitFrom 'a' 6 10 c

/-- The number of a list of digits in a base. -/
def digits (base : Nat) (acc : Nat) : List Char → Except AsmError Nat
  | [] => .ok acc
  | c :: cs =>
    match digit c with
    | some d => if d < base then digits base (acc * base + d) cs else .error .badNumber
    | none => .error .badNumber

/-- `0x` prefixes hexadecimal and a bare number is decimal (R8); the number fits `bits` bits. -/
def number (bits : Nat) (cs : List Char) : Except AsmError (BitVec bits) := do
  let n ← match cs with
    | '0' :: 'x' :: d :: ds => digits 16 0 (d :: ds)
    | d :: ds => digits 10 0 (d :: ds)
    | [] => .error .badNumber
  if n < 2 ^ bits then .ok (BitVec.ofNat bits n) else .error .badNumber

/-- `<reg>`: a register's name or `@<offset>` (R83). -/
def target (cs : List Char) : Except AsmError Target :=
  match cs with
  | '@' :: ds => (number 5 ds).map .raw
  | ['C', 'T', 'R', 'L'] => .ok (.reg .ctrl)
  | ['S', 'T', 'A', 'T', 'U', 'S'] => .ok (.reg .status)
  | ['D', 'A', 'T', 'A', '8'] => .ok (.reg .data8)
  | ['D', 'A', 'T', 'A', '3', '2'] => .ok (.reg .data32)
  | ['E', 'X', 'P', 'E', 'C', 'T'] => .ok (.reg .expect)
  | ['R', 'E', 'S', 'U', 'L', 'T'] => .ok (.reg .result)
  | ['C', 'O', 'U', 'N', 'T'] => .ok (.reg .count)
  | _ => .error .unknownTarget

/-- The width suffix of `RD` and `WR` (R83). -/
def suffix (cs : List Char) : Except AsmError Width :=
  match cs with
  | [] => .ok .word
  | ['.', 'B'] => .ok .byte
  | ['.', 'H'] => .ok .half
  | ['.', 'X'] => .ok .reserved
  | _ => .error .unknownOperation

/-- The expected response after `->`, if one is written (R83). -/
def expectedPart : List Token → Except AsmError (Option Expected)
  | [] => .ok none
  | [.arrow, .word ['E', 'R', 'R']] => .ok (some .err)
  | [.arrow, .word v] => (number 32 v).map fun x => some (.data x)
  | _ => .error .badOperands

/-- The tokens between commas: the operands of a pseudo-operation, one item each (R84, R85). -/
def splitItems : List Token → List (List Token)
  | [] => [[]]
  | .comma :: ts => [] :: splitItems ts
  | t :: ts =>
    match splitItems ts with
    | [] => [[t]]
    | item :: items => (t :: item) :: items

/-- A byte in a row of bytes that blanks separate, as in `89 50 4E 47` (R140): two hexadecimal digits, or a number
with `0x` (DESIGN CHOICE: R8 reads a bare number as decimal; assumption 19). -/
def rowByte (cs : List Char) : Except AsmError Byte :=
  match cs with
  | [_, _] => (digits 16 0 cs).map (BitVec.ofNat 8)
  | '0' :: 'x' :: _ => number 8 cs
  | _ => .error .badNumber

/-- A row of bytes that blanks separate. -/
def byteRow : List Token → Except AsmError (List Byte)
  | [] => .ok []
  | .word v :: ts => do
    let b ← rowByte v
    let bs ← byteRow ts
    .ok (b :: bs)
  | _ => .error .badOperands

/-- The bytes of one item: one number (R84), a quoted text, which stands for its UTF-8 bytes (DESIGN CHOICE: R111 and
R125 write `FEED "IEND"` where R84's table gives FEED bytes; assumption 19), or a row of two bytes or more that
blanks separate, as the CHUNKCHECK line of 95_test_vectors.md P5 has them (R85). -/
def byteItem : List Token → Except AsmError (List Byte)
  | [] => .error .badOperands
  | [.text cs] => .ok (utf8 cs)
  | [.word v] => (number 8 v).map fun b => [b]
  | ts => byteRow ts

/-- The bytes of one item after another: `<b0>, ..., <bn-1>` and `<data...>` (R84, R85). -/
def byteList : List (List Token) → Except AsmError (List Byte)
  | [] => .ok []
  | item :: items => do
    let bs ← byteItem item
    let rest ← byteList items
    .ok (bs ++ rest)

/-- `<data...>, <crc>`: the bytes of every item but the last, which is the crc (R85). -/
def bytesThenCrc : List (List Token) → Except AsmError (List Byte × Word)
  | [] => .error .badOperands
  | [[.word v]] => (number 32 v).map fun c => ([], c)
  | item :: items => do
    let bs ← byteItem item
    let r ← bytesThenCrc items
    .ok (bs ++ r.1, r.2)

/-- `<type4>`: an item of four bytes, whatever they are (R85, R149). -/
def chunkType (item : List Token) : Except AsmError ChunkType := do
  match ← byteItem item with
  | [b0, b1, b2, b3] => .ok ⟨b0, b1, b2, b3⟩
  | _ => .error .badOperands

/-- A statement by its operation word and the tokens after it (R83 to R85). DESIGN CHOICE: the expected response of
R83 may follow RD and WR, and no pseudo-operation, on which R83 and R84 are silent (assumption 20). -/
def statement (op : List Char) (ts : List Token) : Except AsmError Statement :=
  match op, ts with
  | ['I', 'N', 'I', 'T'], [] => .ok (.pseudo .init)
  | ['C', 'H', 'E', 'C', 'K'], [] => .ok (.pseudo .check)
  | ['N', 'O', 'P'], [] => .ok (.pseudo .nop)
  | ['E', 'X', 'P', 'E', 'C', 'T'], [.word v] => (number 32 v).map fun x => .pseudo (.expect x)
  | ['F', 'E', 'E', 'D'], ts => (byteList (splitItems ts)).map fun bs => .pseudo (.feed bs)
  | ['F', 'E', 'E', 'D', 'S', 'T', 'R'], [.text cs] => .ok (.pseudo (.feedStr cs))
  | ['C', 'H', 'U', 'N', 'K', 'C', 'R', 'C'], ts =>
    match splitItems ts with
    | [] => .error .badOperands
    | item :: items => do
      let ty ← chunkType item
      let data ← byteList items
      .ok (.pseudo (.chunkCrc ty data))
  | ['C', 'H', 'U', 'N', 'K', 'C', 'H', 'E', 'C', 'K'], ts =>
    match splitItems ts with
    | [] => .error .badOperands
    | item :: items => do
      let ty ← chunkType item
      let r ← bytesThenCrc items
      .ok (.pseudo (.chunkCheck ty r.1 r.2))
  | 'R' :: 'D' :: sfx, .word r :: rest => do
    let w ← suffix sfx
    let t ← target r
    let e ← expectedPart rest
    .ok (.txn (.rd w t) e)
  | 'W' :: 'R' :: sfx, .word r :: .comma :: .word v :: rest => do
    let w ← suffix sfx
    let t ← target r
    let x ← number 32 v
    let e ← expectedPart rest
    .ok (.txn (.wr w t x) e)
  | _, _ => .error .unknownOperation

/-- One line of text; an empty line, or one of a comment only, holds no statement (R83). -/
def parseLine (line : List Char) : Except AsmError (Option Statement) := do
  match ← lex none [] line with
  | [] => .ok none
  | .word op :: ts => (statement op ts).map some
  | _ => .error .unknownOperation

/-- The operations a statement stands for (R83 to R85). -/
def Statement.ops : Statement → List AsmOp
  | .txn op _ => [op]
  | .pseudo p => p.expand

end Sys2Proof.Machine
end

