-- ==== Sys2Proof/Machine/Conditions.lean ====
section
/-! DEFINITION. The unit's error and result conditions and what raises them (60_exceptions.md R161, R165). -/

namespace Sys2Proof.Machine

/-- The conditions of R161, "with the codes a model uses to name them". -/
inductive Condition where
  /-- Code 1, a bus error (R129). -/
  | busErrSize
  /-- Code 2, a bus error (R130). -/
  | busErrAlign
  /-- Code 3, a bus error (R131). -/
  | busErrUnmapped
  /-- Code 4, a status flag (R162). -/
  | cmdErr
  /-- Code 5, a status flag; "a report, not a fault" (R163). -/
  | cntOvf
  /-- Code 6, a result; "not a fault" (R164, R176). -/
  | mismatch
  deriving DecidableEq, Repr

/-- The code column of R161. -/
def Condition.code : Condition → Nat
  | .busErrSize => 1
  | .busErrAlign => 2
  | .busErrUnmapped => 3
  | .cmdErr => 4
  | .cntOvf => 5
  | .mismatch => 6

/-- The kind column of R161: the bus errors. -/
def Condition.isBusError : Condition → Bool
  | .busErrSize | .busErrAlign | .busErrUnmapped => true
  | .cmdErr | .cntOvf | .mismatch => false

/-- Which conditions are faults of the host's run: `err = 1` and CMDERR (D25). -/
def Condition.fault : Condition → Option Fault
  | .busErrSize => some .busErrSize
  | .busErrAlign => some .busErrAlign
  | .busErrUnmapped => some .busErrUnmapped
  | .cmdErr => some .cmdErr
  | .cntOvf => none
  | .mismatch => none

/-- The condition a transaction produces in a state of the unit, "at most one" (R165). A FEED32 wraps
COUNT "if COUNT was 0xFFFFFFFC or greater" (R115). -/
def conditionOf (i : Instr) (u : UnitState) : Option Condition :=
  match i with
  | .buserrSizeByte _ _ _ | .buserrSizeHalf _ _ _ | .buserrSizeReserved _ _ _ => some .busErrSize
  | .buserrAlign1 _ _ _ | .buserrAlign2 _ _ _ | .buserrAlign3 _ _ _ => some .busErrAlign
  | .buserrUnmapped _ _ => some .busErrUnmapped
  | .ctrlIllegal _ => some .cmdErr
  | .feed8 _ => if u.count = 0xFFFFFFFF#32 then some .cntOvf else none
  | .feed32 _ => if 0xFFFFFFFC#32 ≤ u.count then some .cntOvf else none
  | .check => if u.result = u.expect then none else some .mismatch
  | .rdCtrl | .rdStatus | .rdData8 | .rdData32 | .rdExpect | .rdResult | .rdCount => none
  | .ctrlNop | .init => none
  | .wrStatus _ | .wrExpect _ | .wrResult _ | .wrCount _ => none

end Sys2Proof.Machine
end

