-- ==== Sys2Proof/Machine/Protocol.lean ====
section
/-! DEFINITION. The host's chunk CRC procedures (42_chunk_protocol.md R140 to R154): what is fed, in what order,
and how the unit's results are read. Framing errors and type-code checks are the host's own and out of scope
(00_scope.md R4, R141, R149). -/

namespace Sys2Proof.Machine

/-- "The CRC input of a chunk is exactly type ++ data" (R142). -/
def crcInput (ty : ChunkType) (data : List Byte) : List Byte := ty.bytes ++ data

/-- Generating the crc of a fresh chunk: INIT, FEED, RD RESULT (R144). -/
def generateOps (ty : ChunkType) (data : List Byte) : List AsmOp := (PseudoOp.chunkCrc ty data).expand

/-- Validating a parsed chunk: INIT, FEED, EXPECT, CHECK, RD STATUS (R145). -/
def validateOps (ty : ChunkType) (data : List Byte) (crcfd : Word) : List AsmOp :=
  (PseudoOp.chunkCheck ty data crcfd).expand

/-- What the STATUS word read by R145 says. -/
inductive Verdict where
  | valid | invalid | notChecked
  deriving DecidableEq, Repr

/-- Valid iff `st[1:0] == 11`, invalid iff `st[1:0] == 01` (R145); no verdict while DONE is 0 (R26). -/
def verdictOf (st : Word) : Verdict :=
  if st.getLsbD 0 then (if st.getLsbD 1 then .valid else .invalid) else .notChecked

/-- On a mismatch the host reads provided = EXPECT and computed = RESULT (R146). -/
def mismatchOps : List AsmOp := [rdReg .expect, rdReg .result]

/-- "`length` fits in 32 bits, unsigned" (R6): what the host checks before it feeds anything (R150). -/
def lengthFits (data : List Byte) : Bool := data.length < 2 ^ 32

/-- The record on the wire: length, type, data, crc, the numbers big-endian (R140, R144). -/
def serialise (ty : ChunkType) (data : List Byte) (c : Word) : List Byte :=
  beBytes (BitVec.ofNat 32 data.length) ++ ty.bytes ++ data ++ beBytes c

/-- The four bytes of a buffer at an offset, if they are there. -/
def bytesAt (buf : List Byte) (p : Nat) : Option ChunkType :=
  match buf.drop p with
  | b0 :: b1 :: b2 :: b3 :: _ => some ⟨b0, b1, b2, b3⟩
  | _ => none

/-- `BE32` of four bytes of a buffer (R9, R140). -/
def be32At (buf : List Byte) (p : Nat) : Option Word :=
  (bytesAt buf p).map fun q => be32 q.b0 q.b1 q.b2 q.b3

/-- The fields of a chunk in a buffer (R140). -/
structure Frame where
  length : Word
  ty : ChunkType
  data : List Byte
  crcfd : Word
  deriving DecidableEq, Repr

/-- The chunk that starts at byte offset `p` of a buffer (R140), if the buffer holds it whole. -/
def frameAt (buf : List Byte) (p : Nat) : Option Frame := do
  let len ← be32At buf p
  let ty ← bytesAt buf (p + 4)
  let crcfd ← be32At buf (p + 8 + len.toNat)
  some ⟨len, ty, (buf.drop (p + 8)).take len.toNat, crcfd⟩

/-- "8-byte fixed signature" (R140); it is never CRC input (R142). -/
def fileSignature : List Byte := [0x89#8, 0x50#8, 0x4E#8, 0x47#8, 0x0D#8, 0x0A#8, 0x1A#8, 0x0A#8]

/-- Where the chunk after chunks of these data lengths starts: `8 + Σ(12 + L_j)` (R153). -/
def chunkOffset (lengths : List Nat) : Nat := 8 + (lengths.map fun len => 12 + len).sum

/-- The host validates the chunks of a file one after another, each starting with INIT (R153). -/
def validateFileOps (chunks : List Frame) : List AsmOp :=
  chunks.flatMap fun c => validateOps c.ty c.data c.crcfd

/-- "So one failed CHECK fails the file" (R153). -/
def fileValid (verdicts : List Verdict) : Bool := verdicts.all fun v => v == .valid

end Sys2Proof.Machine
end

