-- ==== Sys2Proof/Safety.lean ====
section
/-! DEFINITION. What claims are stated in: the invariant of reachable states (10_state.md R25), a run without
faults of the host (92_eei_decisions.md D25), and feeds as transactions. -/

namespace Sys2Proof.Machine

/-- "STATUS.MATCH == 1 implies STATUS.DONE == 1" (R25). -/
def UnitState.wf (u : UnitState) : Bool := !u.matched || u.done

/-- "For a bus error, rdata = 0x00000000 and err = 1" (R71): a response with err = 1 carries no data. -/
def Response.wf (r : Response) : Bool := !r.err || r.rdata == 0#32

/-- The invariant that every step keeps and reset establishes (R25, R71). -/
def State.Inv (s : State) : Prop := s.unit.wf = true ∧ ∀ r, s.response = some r → r.wf = true

/-- A run of the host without a fault so far (D25). -/
def State.CleanRun (s : State) : Prop := s.faults = []

/-- One feeding transaction: a DATA8 or a DATA32 write (R114, R115). -/
inductive Feed where
  | byte (b : Byte)
  | word (w : Word)
  deriving DecidableEq, Repr

/-- The bytes a feeding transaction feeds, in order (R76, R77). -/
def Feed.bytes : Feed → List Byte
  | .byte b => [b]
  | .word w => beBytes w

/-- The instruction of a feeding transaction. -/
def Feed.instr : Feed → Instr
  | .byte b => .feed8 b
  | .word w => .feed32 w

/-- Feeding transactions as host events. -/
def feedEvents (fs : List Feed) : List HostEvent := fs.map fun f => .transaction (encode f.instr)

/-- The byte with bit `k` flipped (R99). -/
def flipBit (b : Byte) (k : Nat) : Byte := b ^^^ BitVec.twoPow 8 k

/-- Bytewise exclusive OR of two sequences (R98). -/
def xorBytes (a b : List Byte) : List Byte := List.zipWith (fun x y => x ^^^ y) a b

/-- The state after a transaction that leaves the unit in `u`, answers `r` and records the faults `fs`:
nothing else changes, the events that wait among it (R127). -/
def State.after (s : State) (u : UnitState) (r : Response) (fs : List Fault) : State where
  unit := u
  response := some r
  pending := s.pending
  faults := s.faults ++ fs

/-- The register that a successful read returns (R79, test 4). -/
def readRegOf : Instr → Option Reg
  | .rdCtrl => some .ctrl
  | .rdStatus => some .status
  | .rdData8 => some .data8
  | .rdData32 => some .data32
  | .rdExpect => some .expect
  | .rdResult => some .result
  | .rdCount => some .count
  | .buserrSizeByte _ _ _ | .buserrSizeHalf _ _ _ | .buserrSizeReserved _ _ _ => none
  | .buserrAlign1 _ _ _ | .buserrAlign2 _ _ _ | .buserrAlign3 _ _ _ => none
  | .buserrUnmapped _ _ => none
  | .ctrlNop | .init | .check | .ctrlIllegal _ => none
  | .wrStatus _ | .feed8 _ | .feed32 _ | .wrExpect _ | .wrResult _ | .wrCount _ => none

/-- The next step executes this instruction: the oldest waiting event brings its transaction. -/
def State.nextIs (s : State) (i : Instr) : Prop :=
  ∃ e rest d, s.pending = e :: rest ∧ e.deliver = .transaction d ∧ decode d = i

/-- The next step applies the reset input (R180). -/
def State.nextIsReset (s : State) : Prop := ∃ e rest, s.pending = e :: rest ∧ e.deliver = .reset

/-- A shift step of the unreflected form, with the normal form of the polynomial (R90). -/
def crcShiftNormal (s : Word) : Word := if s.msb then (s <<< 1) ^^^ crcPoly else s <<< 1

/-- The response to the last transaction carried this `rdata` without an error (R71). -/
def State.answered (s : State) (rdata : Word) : Prop := s.response = some ⟨rdata, false⟩

end Sys2Proof.Machine
end

