-- ==== Sys2Proof/Certificates/Slice0/Obligations.lean ====
section
/-! DEFINITION. The statements for the provers. Each docstring names the rules of spec/ it formalises. -/

open Sys2Proof Sys2Proof.Machine

/-! ## Reset, steps, events -/

/-- R37: the value of every piece of state after reset; RESULT and STATUS read 0. -/
def Obligations.ResetLeavesStatedValues : Prop :=
  State.reset.unit =
    { regS := 0xFFFFFFFF#32, count := 0x00000000#32, expect := 0x00000000#32,
      done := false, matched := false, cmdErr := false, cntOvf := false } ∧
  State.reset.unit.read .result = 0x00000000#32 ∧ State.reset.unit.read .status = 0x00000000#32

/-- R180: applying the reset input, between any two transactions and from any state, sets every piece of the unit's state. -/
def Obligations.ResetEventSetsEveryRegister : Prop :=
  ∀ (s : State) (rest : List HostEvent), ∃ t,
    step { s with pending := .reset :: rest } = .next t ∧ t.pending = rest ∧
    t.unit =
      { regS := 0xFFFFFFFF#32, count := 0x00000000#32, expect := 0x00000000#32,
        done := false, matched := false, cmdErr := false, cntOvf := false }

/-- R181: reset and INIT differ only in EXPECT; and a host may feed at once after reset. -/
def Obligations.ResetAndInitDifferOnlyInExpect : Prop :=
  (∀ s : State, ∃ t, exec .init s = .next t ∧
    s.applyReset.unit = { t.unit with expect := 0x00000000#32 } ∧ t.unit.expect = s.unit.expect) ∧
  (∀ (s : State) (fs : List Feed) (rest : List HostEvent), ∃ t,
    run (1 + fs.length) { s with pending := .reset :: (feedEvents fs ++ rest) } = .next t ∧
    t.unit.read .result = crc (fs.flatMap Feed.bytes))

/-- R11: a transaction that waits is the next step: the decoded instruction is executed, in the state with
the event taken off the waiting ones. -/
def Obligations.StepExecutesTheDecodedTransaction : Prop :=
  ∀ (s : State) (rest : List HostEvent),
    (∀ d : Descriptor, (decode d).wf = true ∧
      step { s with pending := .transaction d :: rest } = exec (decode d) { s with pending := rest }) ∧
    (∀ i : Instr, i.wf = true →
      step { s with pending := .transaction (encode i) :: rest } = exec i { s with pending := rest })

/-- R51: an access at BASE + off is the transaction that names the offset, and an address outside the window does not
reach the unit. That such an access only leaves the waiting events, with the last response and the record of faults
kept, is the model's choice (assumptions 8, 4 and 5). -/
def Obligations.OnlyWindowAccessesReachTheUnit : Prop :=
  Config.base % 0x20 = 0 ∧
  ∀ (s : State) (rest : List HostEvent) (we : Bool) (size : Size) (wdata : Word),
    (∀ off : Offset,
      step { s with pending := .access we size (Config.base + off.toNat) wdata :: rest } =
        exec (decode (mkDescriptor we size off wdata)) { s with pending := rest }) ∧
    (∀ address : Nat, address < Config.base ∨ Config.base + 0x1F < address →
      step { s with pending := .access we size address wdata :: rest } = .next { s with pending := rest })

/-- R127, "no autonomous step": with nothing waiting a step changes nothing (that such a step exists is the
model's choice, assumption 3). -/
def Obligations.NoAutonomousActivity : Prop :=
  ∀ s : State, s.pending = [] → step s = .next s

/-- R168 and D25: no step stops; each takes one waiting event, and no recorded fault is ever lost. The model's own are:
that no step answers a fault (assumption 6), the next state with no event waiting (assumption 3), and the record,
which the reset event keeps too (assumption 5). -/
def Obligations.EveryStepGoesOnAndKeepsTheRecord : Prop :=
  ∀ s : State, ∃ t, step s = .next t ∧ t.pending = s.pending.tail ∧ s.faults <+: t.faults

/-- R60: the second of two transactions sees every effect of the first; with the three consequences R60 names. -/
def Obligations.LaterTransactionSeesEarlierEffects : Prop :=
  (∀ (s t : State) (d1 d2 : Descriptor) (rest : List HostEvent),
    exec (decode d1) { s with pending := .transaction d2 :: rest } = .next t →
    run 2 { s with pending := .transaction d1 :: .transaction d2 :: rest } =
      exec (decode d2) { t with pending := rest }) ∧
  (∀ (s : State) (b : Byte) (rest : List HostEvent), ∃ t,
    run 2 { s with pending := .transaction (encode (.feed8 b)) :: .transaction (encode .rdResult) :: rest } = .next t ∧
    t.answered (crcUpdateByte s.unit.regS b ^^^ 0xFFFFFFFF#32)) ∧
  (∀ (s : State) (w : Word) (rest : List HostEvent), ∃ t st,
    run 3 { s with pending := hostEvents [wrReg .expect w, wrReg .ctrl 2#32, rdReg .status] ++ rest } = .next t ∧
    t.answered st ∧ st.getLsbD 0 = true ∧ (st.getLsbD 1 = true ↔ s.unit.regS ^^^ 0xFFFFFFFF#32 = w))

/-! ## Encoding -/

/-- R70, R79, R80: words written out bit by bit from the spec's encodings decode to their instructions. -/
def Obligations.WordsFromTheSpecDecode : Prop :=
  decode 0b1100000000000000000000000000000000000001#40 = .init ∧
  decode 0b1100000000000000000000000000000000000010#40 = .check ∧
  decode 0b1100000000000000000000000000000000000000#40 = .ctrlNop ∧
  decode 0b1100000010000000000000000000000000000001#40 = .ctrlIllegal 0x80000001#32 ∧
  decode 0b1100100000000000000000000000000111111111#40 = .feed8 0xFF#8 ∧
  decode 0b1100110001001001010001010100111001000100#40 = .feed32 0x49454E44#32 ∧
  decode 0b1101000010101110010000100110000010000010#40 = .wrExpect 0xAE426082#32 ∧
  decode 0b0100010011011110101011011011111011101111#40 = .rdStatus ∧
  decode 0b0101010000000000000000000000000000000000#40 = .rdResult ∧
  decode 0b1000100000000000000000000000000001000001#40 = .buserrSizeByte true 0x08#5 0x41#32 ∧
  decode 0b0100011000000000000000000000000000000000#40 = .buserrAlign2 false 1#3 0#32 ∧
  decode 0b0101110000000000000000000000000000000000#40 = .buserrUnmapped false 0#32

/-- R79: the decoder follows the order of its tests, for every descriptor. -/
def Obligations.DecodeFollowsTheOrderOfTests : Prop :=
  ∀ d : Descriptor, (decode d).mnemonic =
    if fieldSIZE d ≠ 0b10#2 then "BUSERR_SIZE"
    else if (fieldADDR d).extractLsb' 0 2 ≠ 0b00#2 then "BUSERR_ALIGN"
    else if fieldADDR d = 0x1C#5 then "BUSERR_UNMAPPED"
    else if fieldWE d = false then
      (if fieldADDR d = 0x00#5 then "RD_CTRL" else if fieldADDR d = 0x04#5 then "RD_STATUS"
      else if fieldADDR d = 0x08#5 then "RD_DATA8" else if fieldADDR d = 0x0C#5 then "RD_DATA32"
      else if fieldADDR d = 0x10#5 then "RD_EXPECT" else if fieldADDR d = 0x14#5 then "RD_RESULT"
      else "RD_COUNT")
    else if fieldADDR d = 0x00#5 then
      (if fieldWDATA d = 0#32 then "CTRL_NOP" else if fieldWDATA d = 1#32 then "INIT"
      else if fieldWDATA d = 2#32 then "CHECK" else "CTRL_ILLEGAL")
    else if fieldADDR d = 0x04#5 then "WR_STATUS" else if fieldADDR d = 0x08#5 then "FEED8"
    else if fieldADDR d = 0x0C#5 then "FEED32" else if fieldADDR d = 0x10#5 then "WR_EXPECT"
    else if fieldADDR d = 0x14#5 then "WR_RESULT" else "WR_COUNT"

/-- R80: the decoder agrees with the match and mask rows of the opcode table, taken in the table's order. -/
def Obligations.DecoderAgreesWithTheOpcodeTable : Prop :=
  ∀ d : Descriptor, tableRow d = (decode d).row ∧ (decode d).row.map OpcodeRow.mnemonic = some (decode d).mnemonic

/-- R70, R79: decoding the encoding of a well-formed instruction gives it back, every operand at every value. -/
def Obligations.DecodeOfEncodeIsIdentity : Prop :=
  ∀ i : Instr, i.wf = true → decode (encode i) = i

/-- R74, R76, R79: the other direction: encoding what was decoded gives the descriptor with the ignored bits
at 0, and those bits change nothing. -/
def Obligations.EncodeOfDecodeClearsOnlyIgnoredBits : Prop :=
  ∀ d : Descriptor, encode (decode d) = canonical d ∧ decode (canonical d) = decode d ∧ (decode d).wf = true ∧
    ((decode d).isRead = false → (∀ b, decode d ≠ .feed8 b) → canonical d = d)

/-! ## Commands -/

/-- R110: INIT. -/
def Obligations.InitStartsAFreshComputation : Prop :=
  (∀ d : Descriptor, decode d = .init ↔ d &&& 0xFFFFFFFFFF#40 = 0xC000000001#40) ∧
  (∀ s : State, exec .init s = .next (s.after
    { regS := 0xFFFFFFFF#32, count := 0x00000000#32, expect := s.unit.expect,
      done := false, matched := false, cmdErr := false, cntOvf := false } ⟨0#32, false⟩ [])) ∧
  (∀ s : State, s.unit = UnitState.reset → ∃ t, exec .init s = .next t ∧ t.unit = s.unit) ∧
  (∀ (i : Instr) (s t : State), exec i s = .next t →
    (s.unit.cmdErr = true ∧ t.unit.cmdErr = false) ∨ (s.unit.cntOvf = true ∧ t.unit.cntOvf = false) → i = .init)

/-- R111: CHECK, and its corner cases: repeats, also with transactions between that change neither S nor EXPECT;
CHECK after INIT with EXPECT = 0; the example. -/
def Obligations.CheckComparesResultWithExpect : Prop :=
  (∀ d : Descriptor, decode d = .check ↔ d &&& 0xFFFFFFFFFF#40 = 0xC000000002#40) ∧
  (∀ s : State, ∃ t, exec .check s = .next t ∧
    t = s.after { s.unit with done := true, matched := decide (s.unit.regS ^^^ 0xFFFFFFFF#32 = s.unit.expect) }
      ⟨0#32, false⟩ [] ∧
    exec .check t = .next t ∧
    ∀ i : Instr, i.isFeed = false → (∀ w, i ≠ .wrExpect w) → i ≠ .init → ∃ t1 t2,
      exec i t = .next t1 ∧ exec .check t1 = .next t2 ∧ t2.unit = { t1.unit with done := true, matched := t.unit.matched }) ∧
  (∀ s t : State, s.unit.expect = 0#32 → exec .init s = .next t →
    ∃ t', exec .check t = .next t' ∧ t'.unit.matched = true) ∧
  (∀ s t : State, s.unit.regS = 0x51BD9F7D#32 → s.unit.cmdErr = false → s.unit.cntOvf = false →
    exec .check s = .next t →
    (s.unit.expect = 0xAE426082#32 → t.unit.read .status = 0x00000003#32) ∧
    (s.unit.expect = 0xAE426083#32 → t.unit.read .status = 0x00000001#32))

/-- R112: CTRL_NOP. -/
def Obligations.CtrlNopChangesNothing : Prop :=
  (∀ d : Descriptor, decode d = .ctrlNop ↔ d &&& 0xFFFFFFFFFF#40 = 0xC000000000#40) ∧
  (∀ s : State, exec .ctrlNop s = .next (s.after s.unit ⟨0#32, false⟩ []))

/-- R113: CTRL_ILLEGAL sets CMDERR and nothing else of the unit; the response has err = 0, and the waiting events
stay. (What the model records of the host's run is in ConditionsAreReportedWhereTheyArise.) -/
def Obligations.IllegalCommandSetsOnlyCmdErr : Prop :=
  (∀ d : Descriptor, decode d = .ctrlIllegal (fieldWDATA d) ↔
    d &&& 0xFF00000000#40 = 0xC000000000#40 ∧
      d ≠ 0xC000000000#40 ∧ d ≠ 0xC000000001#40 ∧ d ≠ 0xC000000002#40) ∧
  (∀ (w : Word) (s : State), ∃ t, exec (.ctrlIllegal w) s = .next t ∧
    t.unit = { s.unit with cmdErr := true } ∧ t.response = some ⟨0x00000000#32, false⟩ ∧ t.pending = s.pending)

/-! ## Feeds, EXPECT and the ignored writes -/

/-- R114: FEED8, with Feed (R92) written out. -/
def Obligations.Feed8FeedsOneByte : Prop :=
  (∀ d : Descriptor, decode d = .feed8 (d.extractLsb' 0 8) ↔ d &&& 0xFF00000000#40 = 0xC800000000#40) ∧
  (∀ (b : Byte) (s : State), exec (.feed8 b) s = .next (s.after
    { regS := crcUpdateByte s.unit.regS b
      count := s.unit.count + 1#32
      expect := s.unit.expect
      done := false
      matched := false
      cmdErr := s.unit.cmdErr
      cntOvf := if s.unit.count = 0xFFFFFFFF#32 then true else s.unit.cntOvf } ⟨0#32, false⟩ [])) ∧
  crcUpdateByte 0xFFFFFFFF#32 0x00#8 = 0x2DFD1072#32 ∧
  (∃ t, exec (.feed8 0x00#8) State.reset = .next t ∧ t.unit.read .result = 0xD202EF8D#32 ∧ t.unit.read .count = 1#32)

/-- R115: FEED32 feeds four bytes, most significant first; CNTOVF is set if COUNT was 0xFFFFFFFC or greater; the
effect equals four FEED8 writes of the same bytes in order. -/
def Obligations.Feed32FeedsFourBytesMostSignificantFirst : Prop :=
  (∀ d : Descriptor, decode d = .feed32 (fieldWDATA d) ↔ d &&& 0xFF00000000#40 = 0xCC00000000#40) ∧
  (∀ (w : Word) (s : State), exec (.feed32 w) s = .next (s.after
    { regS := crcUpdateByte (crcUpdateByte (crcUpdateByte (crcUpdateByte s.unit.regS
        (w.extractLsb' 24 8)) (w.extractLsb' 16 8)) (w.extractLsb' 8 8)) (w.extractLsb' 0 8)
      count := s.unit.count + 4#32
      expect := s.unit.expect
      done := false
      matched := false
      cmdErr := s.unit.cmdErr
      cntOvf := if 0xFFFFFFFC#32 ≤ s.unit.count then true else s.unit.cntOvf } ⟨0#32, false⟩ [])) ∧
  (∀ (w : Word) (s : State) (t1 t2 t3 : State),
    exec (.feed8 (w.extractLsb' 24 8)) s = .next t1 → exec (.feed8 (w.extractLsb' 16 8)) t1 = .next t2 →
    exec (.feed8 (w.extractLsb' 8 8)) t2 = .next t3 →
    exec (.feed8 (w.extractLsb' 0 8)) t3 = exec (.feed32 w) s) ∧
  (∃ t, exec (.feed32 0#32) State.reset = .next t ∧ t.unit.read .result = 0x2144DF1C#32) ∧
  (∃ t, exec (.feed32 0x49454E44#32) State.reset = .next t ∧ t.unit.read .result = 0xAE426082#32 ∧
    t.unit.read .count = 4#32)

/-- R116: WR_EXPECT; the written value is what RD EXPECT then returns. -/
def Obligations.ExpectWriteStoresAndClearsTheCheck : Prop :=
  (∀ d : Descriptor, decode d = .wrExpect (fieldWDATA d) ↔ d &&& 0xFF00000000#40 = 0xD000000000#40) ∧
  (∀ (w : Word) (s : State), ∃ t, exec (.wrExpect w) s = .next t ∧
    t = s.after { s.unit with expect := w, done := false, matched := false } ⟨0#32, false⟩ [] ∧
    exec .rdExpect t = .next (t.after t.unit ⟨w, false⟩ []))

/-- R117, R118, R119: writes to STATUS, RESULT and COUNT change no state, whatever WDATA is. -/
def Obligations.WritesToReadOnlyRegistersAreIgnored : Prop :=
  (∀ d : Descriptor,
    (decode d = .wrStatus (fieldWDATA d) ↔ d &&& 0xFF00000000#40 = 0xC400000000#40) ∧
    (decode d = .wrResult (fieldWDATA d) ↔ d &&& 0xFF00000000#40 = 0xD400000000#40) ∧
    (decode d = .wrCount (fieldWDATA d) ↔ d &&& 0xFF00000000#40 = 0xD800000000#40)) ∧
  (∀ (w : Word) (s : State),
    exec (.wrStatus w) s = .next (s.after s.unit ⟨0#32, false⟩ []) ∧
    exec (.wrResult w) s = .next (s.after s.unit ⟨0#32, false⟩ []) ∧
    exec (.wrCount w) s = .next (s.after s.unit ⟨0#32, false⟩ []))

/-! ## Reads -/

/-- R120, R121, R122: reads of the write-only ports return 0 and change no state. -/
def Obligations.WriteOnlyPortsReadZero : Prop :=
  (∀ d : Descriptor,
    (decode d = .rdCtrl ↔ d &&& 0xFF00000000#40 = 0x4000000000#40) ∧
    (decode d = .rdData8 ↔ d &&& 0xFF00000000#40 = 0x4800000000#40) ∧
    (decode d = .rdData32 ↔ d &&& 0xFF00000000#40 = 0x4C00000000#40)) ∧
  (∀ s : State,
    exec .rdCtrl s = .next (s.after s.unit ⟨0#32, false⟩ []) ∧
    exec .rdData8 s = .next (s.after s.unit ⟨0#32, false⟩ []) ∧
    exec .rdData32 s = .next (s.after s.unit ⟨0#32, false⟩ []))

/-- R123: RD_STATUS returns CNTOVF*8 + CMDERR*4 + MATCH*2 + DONE and clears no flag; the values with MATCH ≤ DONE are
the twelve R123 lists. -/
def Obligations.StatusReadPacksTheFlags : Prop :=
  (∀ d : Descriptor, decode d = .rdStatus ↔ d &&& 0xFF00000000#40 = 0x4400000000#40) ∧
  (∀ s : State, ∃ v : Word, exec .rdStatus s = .next (s.after s.unit ⟨v, false⟩ []) ∧
    v.toNat = s.unit.cntOvf.toNat * 8 + s.unit.cmdErr.toNat * 4 + s.unit.matched.toNat * 2 + s.unit.done.toNat ∧
    v.extractLsb' 4 28 = 0#28 ∧
    (s.unit.wf = true ↔
      v ∈ [0x0#32, 0x1#32, 0x3#32, 0x4#32, 0x5#32, 0x7#32, 0x8#32, 0x9#32, 0xB#32, 0xC#32, 0xD#32, 0xF#32]))

/-- R124, R125, R126: reads of EXPECT, RESULT and COUNT return the register and change no state. -/
def Obligations.RegisterReadsReturnTheRegister : Prop :=
  (∀ d : Descriptor,
    (decode d = .rdExpect ↔ d &&& 0xFF00000000#40 = 0x5000000000#40) ∧
    (decode d = .rdResult ↔ d &&& 0xFF00000000#40 = 0x5400000000#40) ∧
    (decode d = .rdCount ↔ d &&& 0xFF00000000#40 = 0x5800000000#40)) ∧
  (∀ s : State,
    exec .rdExpect s = .next (s.after s.unit ⟨s.unit.expect, false⟩ []) ∧
    exec .rdResult s = .next (s.after s.unit ⟨s.unit.regS ^^^ 0xFFFFFFFF#32, false⟩ []) ∧
    exec .rdCount s = .next (s.after s.unit ⟨s.unit.count, false⟩ []))

/-- R56: reads have no side effects and may be repeated; two equal DATA8 or DATA32 writes feed their bytes twice; a
second EXPECT write of the same value changes nothing more. -/
def Obligations.ReadsAreIdempotentAndFeedsAreNot : Prop :=
  (∀ (i : Instr) (s : State), i.isRead = true → ∃ t, exec i s = .next t ∧ t.unit = s.unit ∧
    t.pending = s.pending ∧ t.faults = s.faults ∧ exec i t = .next t) ∧
  (∀ (b : Byte) (s t : State), exec (.feed8 b) s = .next t → ∃ t', exec (.feed8 b) t = .next t' ∧
    t'.unit.regS = crcFold s.unit.regS [b, b] ∧ t'.unit.count = s.unit.count + 2#32) ∧
  (∀ (w : Word) (s t : State), exec (.feed32 w) s = .next t → ∃ t', exec (.feed32 w) t = .next t' ∧
    t'.unit.regS = crcFold s.unit.regS (beBytes w ++ beBytes w) ∧ t'.unit.count = s.unit.count + 8#32) ∧
  (∀ (w : Word) (s t : State), exec (.wrExpect w) s = .next t → exec (.wrExpect w) t = .next t ∧
    t.unit.done = false ∧ t.unit.matched = false) ∧
  (∀ (w : Word) (i : Instr) (s t : State), i = .wrStatus w ∨ i = .wrResult w ∨ i = .wrCount w →
    exec i s = .next t → t.unit = s.unit)

/-- R35: the unit's whole state is observable: two states that answer the four reads alike are equal. -/
def Obligations.TheFourReadsDetermineTheUnit : Prop :=
  ∀ u v : UnitState, u.read .status = v.read .status → u.read .expect = v.read .expect →
    u.read .result = v.read .result → u.read .count = v.read .count → u = v

/-! ## Bus errors -/

/-- R129: BUSERR_SIZE, by its three rows, with priority over ALIGN and UNMAPPED. -/
def Obligations.WrongSizeIsABusError : Prop :=
  (∀ d : Descriptor, (decode d).mnemonic = "BUSERR_SIZE" ↔
    d &&& 0x6000000000#40 = 0x0000000000#40 ∨ d &&& 0x6000000000#40 = 0x2000000000#40 ∨
    d &&& 0x6000000000#40 = 0x6000000000#40) ∧
  (∀ (i : Instr) (we : Bool) (a : Offset) (w : Word) (s : State),
    i = .buserrSizeByte we a w ∨ i = .buserrSizeHalf we a w ∨ i = .buserrSizeReserved we a w →
    ∃ t, exec i s = .next t ∧ t.unit = s.unit ∧ t.response = some ⟨0x00000000#32, true⟩ ∧ t.pending = s.pending)

/-- R130: BUSERR_ALIGN, by its three rows, with priority over UNMAPPED. -/
def Obligations.MisalignedAccessIsABusError : Prop :=
  (∀ d : Descriptor, (decode d).mnemonic = "BUSERR_ALIGN" ↔
    d &&& 0x6300000000#40 = 0x4100000000#40 ∨ d &&& 0x6300000000#40 = 0x4200000000#40 ∨
    d &&& 0x6300000000#40 = 0x4300000000#40) ∧
  (∀ (i : Instr) (we : Bool) (slot : BitVec 3) (w : Word) (s : State),
    i = .buserrAlign1 we slot w ∨ i = .buserrAlign2 we slot w ∨ i = .buserrAlign3 we slot w →
    ∃ t, exec i s = .next t ∧ t.unit = s.unit ∧ t.response = some ⟨0x00000000#32, true⟩ ∧ t.pending = s.pending)

/-- R131: BUSERR_UNMAPPED; reads and writes behave alike. -/
def Obligations.ReservedOffsetIsABusError : Prop :=
  (∀ d : Descriptor, (decode d).mnemonic = "BUSERR_UNMAPPED" ↔ d &&& 0x7F00000000#40 = 0x5C00000000#40) ∧
  (∀ (we : Bool) (w : Word) (s : State), ∃ t, exec (.buserrUnmapped we w) s = .next t ∧
    t.unit = s.unit ∧ t.response = some ⟨0x00000000#32, true⟩ ∧ t.pending = s.pending)

/-- R55, R160: a transaction answers err = 1 exactly when its size is not a word or its offset is misaligned or
reserved; then the data is 0 and nothing of the unit changes. -/
def Obligations.ErrExactlyForIllegalAccesses : Prop :=
  ∀ (d : Descriptor) (s : State), ∃ t r, exec (decode d) s = .next t ∧ t.response = some r ∧
    (r.err = true ↔ fieldSIZE d ≠ 0b10#2 ∨ (fieldADDR d).extractLsb' 0 2 ≠ 0b00#2 ∨ fieldADDR d = 0x1C#5) ∧
    (r.err = true → r.rdata = 0#32 ∧ t.unit = s.unit)

/-- R71: the response to every transaction. -/
def Obligations.EveryTransactionIsAnswered : Prop :=
  ∀ (i : Instr) (s : State), ∃ t, exec i s = .next t ∧ t.response = some
    (if i.isBusError then ⟨0x00000000#32, true⟩
     else match readRegOf i with
       | some r => ⟨s.unit.read r, false⟩
       | none => ⟨0x00000000#32, false⟩)

/-- R161, R165: a transaction produces at most the one condition `conditionOf` names; it is reported in the
response or in STATUS, and recorded as a fault of the host's run exactly when D25 says so (the record is the model's reading of D25 and R176, assumption 5). -/
def Obligations.ConditionsAreReportedWhereTheyArise : Prop :=
  ∀ (i : Instr) (s : State), ∃ t r, exec i s = .next t ∧ t.response = some r ∧
    (r.err = true ↔ ∃ c, conditionOf i s.unit = some c ∧ c.isBusError = true) ∧
    (t.unit.cmdErr = true ∧ s.unit.cmdErr = false → conditionOf i s.unit = some .cmdErr) ∧
    (conditionOf i s.unit = some .cmdErr → t.unit.cmdErr = true ∧ r.err = false) ∧
    (t.unit.cntOvf = true ∧ s.unit.cntOvf = false → conditionOf i s.unit = some .cntOvf) ∧
    (conditionOf i s.unit = some .cntOvf → t.unit.cntOvf = true ∧ t.unit.count < s.unit.count) ∧
    (conditionOf i s.unit = some .mismatch ↔ i = .check ∧ t.unit.done = true ∧ t.unit.matched = false) ∧
    t.faults = s.faults ++ (((conditionOf i s.unit).bind Condition.fault).toList)

/-! ## Whole-machine rules -/

/-- R21: only feeds, INIT and reset change S. -/
def Obligations.OnlyFeedsInitAndResetChangeS : Prop :=
  ∀ s t : State, step s = .next t → t.unit.regS ≠ s.unit.regS →
    s.nextIsReset ∨ s.nextIs .init ∨ ∃ i, i.isFeed = true ∧ s.nextIs i

/-- R22: a feed adds the number of bytes fed to COUNT, INIT and reset set it to 0, and nothing else changes it. -/
def Obligations.CountCountsTheBytesFed : Prop :=
  ∀ s t : State, step s = .next t →
    (∀ b, s.nextIs (.feed8 b) → t.unit.count = s.unit.count + 1#32) ∧
    (∀ w, s.nextIs (.feed32 w) → t.unit.count = s.unit.count + 4#32) ∧
    (s.nextIsReset ∨ s.nextIs .init → t.unit.count = 0#32) ∧
    (t.unit.count ≠ s.unit.count →
      s.nextIsReset ∨ s.nextIs .init ∨ (∃ b, s.nextIs (.feed8 b)) ∨ ∃ w, s.nextIs (.feed32 w))

/-- R23: only an EXPECT write, which stores the whole word, and reset change EXPECT. -/
def Obligations.OnlyExpectWritesAndResetChangeExpect : Prop :=
  ∀ s t : State, step s = .next t → t.unit.expect ≠ s.unit.expect →
    (s.nextIsReset ∧ t.unit.expect = 0#32) ∨ (∃ w, s.nextIs (.wrExpect w) ∧ t.unit.expect = w)

/-- R24: what sets and what clears each of DONE, MATCH, CMDERR and CNTOVF. -/
def Obligations.StatusFlagsChangeAsTheTableSays : Prop :=
  ∀ s t : State, step s = .next t →
    (t.unit.done = true → s.unit.done = true ∨ s.nextIs .check) ∧
    (t.unit.done = false → s.unit.done = false ∨ s.nextIsReset ∨ s.nextIs .init ∨
      (∃ i, i.isFeed = true ∧ s.nextIs i) ∨ ∃ w, s.nextIs (.wrExpect w)) ∧
    (t.unit.matched = true → s.unit.matched = true ∨
      (s.nextIs .check ∧ s.unit.read .result = s.unit.read .expect)) ∧
    (t.unit.matched = false → s.unit.matched = false ∨ s.nextIsReset ∨ s.nextIs .init ∨
      (∃ i, i.isFeed = true ∧ s.nextIs i) ∨ (∃ w, s.nextIs (.wrExpect w)) ∨
      (s.nextIs .check ∧ s.unit.read .result ≠ s.unit.read .expect)) ∧
    (t.unit.cmdErr = true → s.unit.cmdErr = true ∨ ∃ w, s.nextIs (.ctrlIllegal w)) ∧
    (t.unit.cmdErr = false → s.unit.cmdErr = false ∨ s.nextIsReset ∨ s.nextIs .init) ∧
    (t.unit.cntOvf = true → s.unit.cntOvf = true ∨
      ((∃ i, i.isFeed = true ∧ s.nextIs i) ∧ t.unit.count < s.unit.count)) ∧
    (t.unit.cntOvf = false → s.unit.cntOvf = false ∨ s.nextIsReset ∨ s.nextIs .init)

/-- R27: CMDERR and CNTOVF, once set, are cleared only by INIT or reset, and neither changes what any transaction
does to S, COUNT, EXPECT, DONE and MATCH. -/
def Obligations.StickyFlagsStayAndDoNotInterfere : Prop :=
  (∀ s t : State, step s = .next t →
    (s.unit.cmdErr = true ∧ t.unit.cmdErr = false) ∨ (s.unit.cntOvf = true ∧ t.unit.cntOvf = false) →
    s.nextIsReset ∨ s.nextIs .init) ∧
  (∀ (i : Instr) (s : State) (c o : Bool), ∃ t t',
    exec i s = .next t ∧ exec i { s with unit := { s.unit with cmdErr := c, cntOvf := o } } = .next t' ∧
    t'.unit.regS = t.unit.regS ∧ t'.unit.count = t.unit.count ∧ t'.unit.expect = t.unit.expect ∧
    t'.unit.done = t.unit.done ∧ t'.unit.matched = t.unit.matched ∧
    (i ≠ .rdStatus → t'.response = t.response))

/-- The invariant (R25, R71) holds at reset. -/
def Obligations.ResetMeetsTheInvariant : Prop := State.reset.Inv

/-- R25, R71: every step keeps the invariant: MATCH implies DONE, and a response with err = 1 carries no data. -/
def Obligations.EveryStepKeepsTheInvariant : Prop :=
  ∀ s t : State, s.Inv → step s = .next t → t.Inv

/-- R25: in every reachable state, whatever events the host issues, MATCH implies DONE and STATUS[31:4] is 0. -/
def Obligations.ReachableStatesHaveMatchOnlyWithDone : Prop :=
  ∀ (es : List HostEvent) (n : Nat) (t : State), run n (State.reset.submit es) = .next t →
    (t.unit.matched = true → t.unit.done = true) ∧ (t.unit.read .status).extractLsb' 4 28 = 0#28

/-! ## The CRC core -/

/-- R95: the reference values. -/
def Obligations.CrcReferenceValues : Prop :=
  crc [] = 0x00000000#32 ∧ crc [0x00#8] = 0xD202EF8D#32 ∧ crc [0xFF#8] = 0xFF000000#32 ∧
  crc [0x61#8] = 0xE8B7BE43#32 ∧
  crc [0x31#8, 0x32#8, 0x33#8, 0x34#8, 0x35#8, 0x36#8, 0x37#8, 0x38#8, 0x39#8] = 0xCBF43926#32 ∧
  crc [0x00#8, 0x00#8, 0x00#8, 0x00#8] = 0x2144DF1C#32 ∧
  crc [0xFF#8, 0xFF#8, 0xFF#8, 0xFF#8] = 0xFFFFFFFF#32 ∧
  crc [0x49#8, 0x45#8, 0x4E#8, 0x44#8] = 0xAE426082#32 ∧
  crc [0x52#8, 0x75#8, 0x53#8, 0x74#8] = 0xD484093C#32 ∧
  crc ([0x52#8, 0x75#8, 0x53#8, 0x74#8] ++
    [0x54#8, 0x68#8, 0x69#8, 0x73#8, 0x20#8, 0x69#8, 0x73#8, 0x20#8, 0x77#8, 0x68#8, 0x65#8, 0x72#8, 0x65#8,
     0x20#8, 0x79#8, 0x6F#8, 0x75#8, 0x72#8, 0x20#8, 0x73#8, 0x65#8, 0x63#8, 0x72#8, 0x65#8, 0x74#8, 0x20#8,
     0x6D#8, 0x65#8, 0x73#8, 0x73#8, 0x61#8, 0x67#8, 0x65#8, 0x20#8, 0x77#8, 0x69#8, 0x6C#8, 0x6C#8, 0x20#8,
     0x62#8, 0x65#8, 0x21#8]) = 2882656334#32

/-- R93: the table form computes the same update function, with the selected entries of the table. -/
def Obligations.TableFormEqualsBitwiseForm : Prop :=
  (∀ (s : Word) (b : Byte), crcUpdateByteByTable s b = crcUpdateByte s b) ∧
  crcTable 0#8 = 0x00000000#32 ∧ crcTable 1#8 = 0x77073096#32 ∧ crcTable 2#8 = 0xEE0E612C#32 ∧
  crcTable 8#8 = 0x0EDB8832#32 ∧ crcTable 16#8 = 0x1DB71064#32 ∧ crcTable 128#8 = 0xEDB88320#32 ∧
  crcTable 255#8 = 0x2D02EF8D#32

/-- R90: POLY_R is the bit reversal of the normal form, and the reflected shift is the unreflected shift seen
through bit reversal ("S is held reflected"). -/
def Obligations.ReflectedShiftIsTheNormalShiftReversed : Prop :=
  crcPolyR = crcPoly.reverse ∧ ∀ s : Word, (crcShift s).reverse = crcShiftNormal s.reverse

/-- R90: the residue: S after any message followed by its own CRC appended little-endian is 0xDEBB20E3. -/
def Obligations.ResidueAfterLittleEndianCrc : Prop :=
  ∀ m : List Byte, crcState (m ++ leBytes (crc m)) = 0xDEBB20E3#32

/-- R100: appended big-endian, as PNG stores it, the crc gives no fixed final state. -/
def Obligations.NoResidueAfterBigEndianCrc : Prop :=
  crcState ([0x31#8, 0x32#8, 0x33#8, 0x34#8, 0x35#8, 0x36#8, 0x37#8, 0x38#8, 0x39#8] ++
    [0xCB#8, 0xF4#8, 0x39#8, 0x26#8]) = 0xC3368BD3#32 ∧
  ¬ ∃ r : Word, ∀ m : List Byte, crcState (m ++ beBytes (crc m)) = r

/-- R98: affinity. -/
def Obligations.CrcIsAffine : Prop :=
  ∀ a b : List Byte, a.length = b.length →
    crc (xorBytes a b) = crc a ^^^ crc b ^^^ crc (List.replicate a.length 0x00#8)

/-- R99: flipping any one bit of the CRC input changes the crc. -/
def Obligations.FlippingAnyBitChangesTheCrc : Prop :=
  ∀ (m : List Byte) (i k : Nat), i < m.length → k < 8 → crc (m.modify i (fun b => flipBit b k)) ≠ crc m

/-- R186: the order of feeds matters. -/
def Obligations.OrderOfFeedsMatters : Prop :=
  crc [0x61#8, 0x62#8] = 0x9E83486D#32 ∧ crc [0x62#8, 0x61#8] = 0x2CA74A14#32

/-! ## Streams -/

/-- R96: feeding bytes in any grouping of DATA8 and DATA32 writes, from any state, for a stream of any length:
S is the fold over the bytes, COUNT advances by their number modulo 2^32, CNTOVF says whether COUNT has wrapped
(R22, R150); DONE and MATCH clear, EXPECT and CMDERR stay (R114, R115). That the record of faults stays is the model's
(assumption 5). -/
def Obligations.AnyGroupingFeedsTheSameStream : Prop :=
  ∀ (s : State) (fs : List Feed) (rest : List HostEvent), ∃ t,
    run fs.length { s with pending := feedEvents fs ++ rest } = .next t ∧
    t.pending = rest ∧ t.faults = s.faults ∧
    t.unit = { s.unit with
      regS := crcFold s.unit.regS (fs.flatMap Feed.bytes)
      count := s.unit.count + BitVec.ofNat 32 (fs.flatMap Feed.bytes).length
      cntOvf := s.unit.cntOvf || decide (2 ^ 32 ≤ s.unit.count.toNat + (fs.flatMap Feed.bytes).length)
      done := s.unit.done && fs.isEmpty
      matched := s.unit.matched && fs.isEmpty }

/-- R94: after an INIT or a reset followed by feeds of exactly the bytes m, S = state(m), RESULT = crc(m) and
COUNT = n mod 2^32. -/
def Obligations.StreamAfterInitOrReset : Prop :=
  ∀ (s : State) (e : HostEvent) (fs : List Feed) (rest : List HostEvent),
    e = .reset ∨ e = .transaction 0xC000000001#40 → ∃ t,
    run (1 + fs.length) { s with pending := e :: (feedEvents fs ++ rest) } = .next t ∧
    t.unit.regS = crcState (fs.flatMap Feed.bytes) ∧
    t.unit.read .result = crc (fs.flatMap Feed.bytes) ∧
    t.unit.count.toNat = (fs.flatMap Feed.bytes).length % 2 ^ 32

/-- R84: FEED expands to floor(n/4) DATA32 writes and n mod 4 DATA8 writes, and its effect on the unit equals n
DATA8 writes in order. -/
def Obligations.FeedExpansionEqualsByteWrites : Prop :=
  ∀ (bs : List Byte),
    ((feedOps bs).filter fun op => fieldADDR op.assemble == 0x0C#5).length = bs.length / 4 ∧
    ((feedOps bs).filter fun op => fieldADDR op.assemble == 0x08#5).length = bs.length % 4 ∧
    (feedOps bs).length = bs.length / 4 + bs.length % 4 ∧
    ∀ (s : State) (rest : List HostEvent), ∃ t t',
      run (feedOps bs).length { s with pending := hostEvents (feedOps bs) ++ rest } = .next t ∧
      run bs.length { s with pending := feedEvents (bs.map Feed.byte) ++ rest } = .next t' ∧
      t = t'

/-! ## The host's procedures -/

/-- R144: generating: INIT, FEED, RD RESULT answers crc(type ++ data). -/
def Obligations.GenerationReadsTheChunkCrc : Prop :=
  ∀ (s : State) (ty : ChunkType) (data : List Byte) (rest : List HostEvent), ∃ t,
    run (generateOps ty data).length { s with pending := hostEvents (generateOps ty data) ++ rest } = .next t ∧
    t.answered (crc (crcInput ty data)) ∧ t.pending = rest

/-- R145: validating: valid if and only if st[1:0] = 11, which is when the crc field is the crc of type ++ data;
invalid if and only if st[1:0] = 01; no other value can be read. -/
def Obligations.ValidationDecidesTheChunkCrc : Prop :=
  ∀ (s : State) (ty : ChunkType) (data : List Byte) (crcfd : Word) (rest : List HostEvent), ∃ t st,
    run (validateOps ty data crcfd).length { s with pending := hostEvents (validateOps ty data crcfd) ++ rest } =
      .next t ∧
    t.answered st ∧
    (st.extractLsb' 0 2 = 0b11#2 ↔ crcfd = crc (crcInput ty data)) ∧
    (st.extractLsb' 0 2 = 0b01#2 ↔ crcfd ≠ crc (crcInput ty data)) ∧
    (verdictOf st = .valid ↔ crcfd = crc (crcInput ty data)) ∧
    (4 + data.length < 2 ^ 32 → crcfd = crc (crcInput ty data) → st = 0x00000003#32)

/-- R146: after a mismatch the host reads the provided crc from EXPECT and the computed crc from RESULT. -/
def Obligations.MismatchReportsProvidedAndComputed : Prop :=
  ∀ (s : State) (ty : ChunkType) (data : List Byte) (crcfd : Word), ∃ t,
    run (validateOps ty data crcfd).length { s with pending := hostEvents (validateOps ty data crcfd ++ mismatchOps) } =
      .next t ∧
    (∃ t1, run 1 t = .next t1 ∧ t1.answered crcfd) ∧
    (∃ t2, run 2 t = .next t2 ∧ t2.answered (crc (crcInput ty data)))

/-- R147, R150: after the feeds of generation and of validation COUNT is (4 + L) mod 2^32, and CNTOVF is set exactly
when 4 + L does not fit. -/
def Obligations.CountAfterTheFeedsIsTheInputLength : Prop :=
  ∀ (s : State) (ty : ChunkType) (data : List Byte) (crcfd : Word) (ops : List AsmOp) (rest : List HostEvent),
    ops = generateOps ty data ∨ ops = validateOps ty data crcfd → ∃ t,
    run ops.length { s with pending := hostEvents ops ++ rest } = .next t ∧
    t.unit.count.toNat = (4 + data.length) % 2 ^ 32 ∧
    (t.unit.cntOvf = true ↔ 2 ^ 32 ≤ 4 + data.length)

/-- R154: the crc that generation reads, checked over the same bytes by whatever comes later, is found valid. -/
def Obligations.GeneratedCrcValidates : Prop :=
  ∀ (s s' : State) (ty : ChunkType) (data : List Byte) (rest rest' : List HostEvent), 4 + data.length < 2 ^ 32 →
    ∃ t c t' st,
      run (generateOps ty data).length { s with pending := hostEvents (generateOps ty data) ++ rest } = .next t ∧
      t.answered c ∧
      run (validateOps ty data c).length { s' with pending := hostEvents (validateOps ty data c) ++ rest' } =
        .next t' ∧
      t'.answered st ∧ st.extractLsb' 0 2 = 0b11#2

/-! ## Reachable values of STATUS -/

/-- R123, R25: the values that a read of STATUS answers in the states reached from reset, whatever events the host
issues, are the twelve with MATCH ≤ DONE: each of them is, and no other. -/
def Obligations.StatusReadsExactlyTheReachableValues : Prop :=
  ∀ v : Word,
    (∃ (es : List HostEvent) (n : Nat) (t t' : State),
      run n (State.reset.submit es) = .next t ∧ exec .rdStatus t = .next t' ∧ t'.answered v) ↔
    v ∈ [0x0#32, 0x1#32, 0x3#32, 0x4#32, 0x5#32, 0x7#32, 0x8#32, 0x9#32, 0xB#32, 0xC#32, 0xD#32, 0xF#32]
end

