-- ==== Sys2Proof/Laws/Crc.lean ====
section
/-! SUPPORT. Laws of the CRC core: each shift step is linear over GF(2) and one-to-one (40_crc_core.md R98, R99),
and the folds compose (R96). -/

namespace Sys2Proof.Machine

/-- A shift step adds the polynomial exactly when the low bit is set (R91). -/
theorem crcShift_eq (s : Word) :
    crcShift s = (s >>> 1) ^^^ (if s.getLsbD 0 then crcPolyR else 0#32) := by
  unfold crcShift; split <;> simp

@[simp] theorem crcShift_zero : crcShift 0#32 = 0#32 := by decide

/-- One shift step is linear over GF(2) (R98). -/
theorem crcShift_xor (a b : Word) : crcShift (a ^^^ b) = crcShift a ^^^ crcShift b := by
  simp only [crcShift_eq, BitVec.getLsbD_xor, BitVec.ushiftRight_xor_distrib]
  cases a.getLsbD 0 <;> cases b.getLsbD 0 <;> simp
  · rw [BitVec.xor_assoc]
  · ac_rfl
  · rw [show ∀ x y p : Word, x ^^^ p ^^^ (y ^^^ p) = x ^^^ y ^^^ (p ^^^ p) from fun x y p => by ac_rfl]
    simp

/-- The linear part of a shift step is invertible, "because 0xEDB88320 has bit 31 set" (R99). -/
theorem crcShift_eq_zero {s : Word} (h : crcShift s = 0#32) : s = 0#32 := by
  rw [crcShift_eq] at h
  cases h0 : s.getLsbD 0 with
  | true =>
    have := congrArg (fun x : Word => x.getLsbD 31) h
    simp [h0, crcPolyR] at this
  | false =>
    rw [h0] at h
    apply BitVec.eq_of_getLsbD_eq
    intro i hi
    cases i with
    | zero => simpa using h0
    | succ j =>
      have := congrArg (fun x : Word => x.getLsbD j) h
      simpa [Nat.add_comm] using this

theorem crcShift_injective {a b : Word} (h : crcShift a = crcShift b) : a = b := by
  have : crcShift (a ^^^ b) = 0#32 := by rw [crcShift_xor, h, BitVec.xor_self]
  exact BitVec.xor_eq_zero_iff.mp (crcShift_eq_zero this)

@[simp] theorem crcShifts_zero (n : Nat) : crcShifts n 0#32 = 0#32 := by
  induction n with
  | zero => rfl
  | succ n ih => simp [crcShifts, ih]

theorem crcShifts_xor (n : Nat) (a b : Word) :
    crcShifts n (a ^^^ b) = crcShifts n a ^^^ crcShifts n b := by
  induction n generalizing a b with
  | zero => rfl
  | succ n ih => simp only [crcShifts, crcShift_xor, ih]

theorem crcShifts_injective (n : Nat) {a b : Word} (h : crcShifts n a = crcShifts n b) : a = b := by
  induction n generalizing a b with
  | zero => exact h
  | succ n ih => exact crcShift_injective (ih h)

theorem crcShifts_add (m n : Nat) (s : Word) : crcShifts (m + n) s = crcShifts n (crcShifts m s) := by
  induction m generalizing s with
  | zero => simp [crcShifts]
  | succ m ih => rw [Nat.succ_add]; exact ih _

/-- A word whose `n` low bits are clear is only shifted by `n` steps (R91). -/
theorem crcShifts_of_low_clear (n : Nat) (s : Word) (h : ∀ i < n, s.getLsbD i = false) :
    crcShifts n s = s >>> n := by
  induction n generalizing s with
  | zero => simp [crcShifts]
  | succ n ih =>
    have h0 : s.getLsbD 0 = false := h 0 (Nat.succ_pos n)
    have hs : crcShift s = s >>> 1 := by rw [crcShift_eq, h0]; simp
    rw [crcShifts, hs, ih _ (fun i hi => by
      have := h (i + 1) (by omega)
      simpa [Nat.add_comm] using this), ← BitVec.shiftRight_add]
    rw [Nat.add_comm]

/-- The update function is affine: state and byte enter separately (R98). -/
theorem crcUpdateByte_eq (s : Word) (b : Byte) :
    crcUpdateByte s b = crcShifts 8 s ^^^ crcShifts 8 (b.setWidth 32) := crcShifts_xor 8 _ _

theorem crcUpdateByte_injective {s s' : Word} {b : Byte} (h : crcUpdateByte s b = crcUpdateByte s' b) :
    s = s' := by
  have := crcShifts_injective 8 h
  simpa using congrArg (fun x : Word => x ^^^ b.setWidth 32) this

@[simp] theorem crcFold_nil (s : Word) : crcFold s [] = s := rfl

@[simp] theorem crcFold_cons (s : Word) (b : Byte) (m : List Byte) :
    crcFold s (b :: m) = crcFold (crcUpdateByte s b) m := rfl

/-- "fold over a concatenation is fold over the second part from the state after the first" (R96). -/
@[simp] theorem crcFold_append (s : Word) (m n : List Byte) : crcFold s (m ++ n) = crcFold (crcFold s m) n :=
  List.foldl_append ..

theorem crcFold_injective {s s' : Word} (m : List Byte) (h : crcFold s m = crcFold s' m) : s = s' := by
  induction m generalizing s s' with
  | nil => exact h
  | cons b m ih => exact crcUpdateByte_injective (ih h)

end Sys2Proof.Machine
end

