-- ==== Sys2Proof/Laws/Decode.lean ====
section
/-! SUPPORT. Laws of the descriptor's fields (30_encoding.md R70) and of the decoder (R79). -/

namespace Sys2Proof

/-- Every bit of a descriptor, by field (R70). -/
theorem getLsbD_mkDescriptor (we : Bool) (size : Size) (addr : Offset) (wdata : Word) (i : Nat) :
    (mkDescriptor we size addr wdata).getLsbD i =
      if i < 32 then wdata.getLsbD i
      else if i < 37 then addr.getLsbD (i - 32)
      else if i < 39 then size.getLsbD (i - 37)
      else decide (i = 39) && we := by
  unfold mkDescriptor
  simp only [BitVec.getLsbD_append]
  by_cases h1 : i < 32
  · simp only [h1, if_true]
  by_cases h2 : i < 37
  · rw [if_neg h1, if_neg h1, if_pos h2, if_pos (by omega)]
  by_cases h3 : i < 39
  · rw [if_neg h1, if_neg h1, if_neg h2, if_pos h3, if_neg (by omega), if_pos (by omega)]
    congr 1
  rw [if_neg h1, if_neg h1, if_neg h2, if_neg h3, if_neg (by omega), if_neg (by omega)]
  by_cases h : i = 39
  · subst h; cases we <;> rfl
  · simp only [h, decide_false, Bool.false_and]
    exact BitVec.getLsbD_of_ge _ _ (by omega)

@[simp] theorem fieldWE_mkDescriptor (we : Bool) (size : Size) (addr : Offset) (wdata : Word) :
    fieldWE (mkDescriptor we size addr wdata) = we := by
  unfold fieldWE; rw [getLsbD_mkDescriptor]; simp

@[simp] theorem fieldSIZE_mkDescriptor (we : Bool) (size : Size) (addr : Offset) (wdata : Word) :
    fieldSIZE (mkDescriptor we size addr wdata) = size := by
  apply BitVec.eq_of_getLsbD_eq
  intro i hi
  simp only [fieldSIZE, BitVec.getLsbD_extractLsb', getLsbD_mkDescriptor, hi, decide_true, Bool.true_and]
  rw [if_neg (by omega), if_neg (by omega), if_pos (by omega)]
  congr 1; omega

@[simp] theorem fieldADDR_mkDescriptor (we : Bool) (size : Size) (addr : Offset) (wdata : Word) :
    fieldADDR (mkDescriptor we size addr wdata) = addr := by
  apply BitVec.eq_of_getLsbD_eq
  intro i hi
  simp only [fieldADDR, BitVec.getLsbD_extractLsb', getLsbD_mkDescriptor, hi, decide_true, Bool.true_and]
  rw [if_neg (by omega), if_pos (by omega)]
  congr 1; omega

@[simp] theorem fieldWDATA_mkDescriptor (we : Bool) (size : Size) (addr : Offset) (wdata : Word) :
    fieldWDATA (mkDescriptor we size addr wdata) = wdata := by
  apply BitVec.eq_of_getLsbD_eq
  intro i hi
  simp only [fieldWDATA, BitVec.getLsbD_extractLsb', getLsbD_mkDescriptor, hi, decide_true, Bool.true_and]
  rw [if_pos (by omega)]
  congr 1; omega

/-- A descriptor is its four fields (R70): no bit is dropped. -/
theorem mkDescriptor_fields (t : Descriptor) :
    mkDescriptor (fieldWE t) (fieldSIZE t) (fieldADDR t) (fieldWDATA t) = t := by
  apply BitVec.eq_of_getLsbD_eq
  intro i hi
  simp only [getLsbD_mkDescriptor, fieldWE, fieldSIZE, fieldADDR, fieldWDATA, BitVec.getLsbD_extractLsb']
  split
  · simp_all
  · split
    · rw [decide_eq_true (by omega : i - 32 < 5), show 32 + (i - 32) = i by omega]; simp
    · split
      · rw [decide_eq_true (by omega : i - 37 < 2), show 37 + (i - 37) = i by omega]; simp
      · have : i = 39 := by omega
        subst this; simp

/-- The decoder on a descriptor given by its fields (R79). -/
@[simp] theorem decode_mkDescriptor (we : Bool) (size : Size) (addr : Offset) (wdata : Word) :
    decode (mkDescriptor we size addr wdata) = decodeFields we size addr wdata := by
  simp [decode]

/-- The offset of a slot and low bits has that slot and those low bits (R73). -/
@[simp] theorem addrLow_mkAddr (slot : BitVec 3) (low : BitVec 2) : addrLow (mkAddr slot low) = low := by
  revert slot low; decide

@[simp] theorem addrSlot_mkAddr (slot : BitVec 3) (low : BitVec 2) : addrSlot (mkAddr slot low) = slot := by
  revert slot low; decide

theorem mkAddr_parts (a : Offset) : mkAddr (addrSlot a) (addrLow a) = a := by
  revert a; decide

/-- A slot names a register exactly when the register's offset is the slot's (R28). -/
theorem Reg.ofSlot_eq_some (a : Offset) (r : Reg) (hlow : addrLow a = 0b00#2) :
    Reg.ofSlot (addrSlot a) = some r ↔ a = r.offset := by
  revert hlow a; cases r <;> decide

/-- Only offset 0x1C is reserved among the aligned ones (R34, R73). -/
theorem Reg.ofSlot_eq_none (a : Offset) (hlow : addrLow a = 0b00#2) :
    Reg.ofSlot (addrSlot a) = none ↔ a = 0x1C#5 := by
  revert hlow a; decide

@[simp] theorem addrLow_offset (r : Reg) : addrLow r.offset = 0b00#2 := by cases r <;> decide

@[simp] theorem Reg.ofSlot_offset (r : Reg) : Reg.ofSlot (addrSlot r.offset) = some r := by cases r <;> decide

/-- The read of a register is decoded as that read, whatever WDATA is (R74, R79). -/
@[simp] theorem decodeFields_read (r : Reg) (w : Word) :
    decodeFields false 0b10#2 r.offset w = decodeRead r := by
  cases r <;> rfl

/-- The write of a register is decoded as that write (R79). -/
@[simp] theorem decodeFields_write (r : Reg) (w : Word) :
    decodeFields true 0b10#2 r.offset w = decodeWrite w r := by
  cases r <;> rfl

@[simp] theorem decode_encodeRead (r : Reg) : decode (encodeRead r) = decodeRead r := by
  simp [encodeRead]

@[simp] theorem decode_encodeWrite (r : Reg) (w : Word) : decode (encodeWrite r w) = decodeWrite w r := by
  simp [encodeWrite]

/-! ## Masks (R80) -/

theorem mkDescriptor_and (we we' : Bool) (size size' : Size) (addr addr' : Offset) (w w' : Word) :
    mkDescriptor we size addr w &&& mkDescriptor we' size' addr' w' =
      mkDescriptor (we && we') (size &&& size') (addr &&& addr') (w &&& w') := by
  apply BitVec.eq_of_getLsbD_eq
  intro i hi
  rw [BitVec.getLsbD_and, getLsbD_mkDescriptor, getLsbD_mkDescriptor, getLsbD_mkDescriptor]
  by_cases h1 : i < 32
  · simp only [h1, if_true, BitVec.getLsbD_and]
  by_cases h2 : i < 37
  · simp only [h1, h2, if_true, if_false, BitVec.getLsbD_and]
  by_cases h3 : i < 39
  · simp only [h1, h2, h3, if_true, if_false, BitVec.getLsbD_and]
  · simp only [h1, h2, h3, if_false]
    cases decide (i = 39) <;> cases we <;> rfl

theorem mkDescriptor_inj {we we' : Bool} {size size' : Size} {addr addr' : Offset} {w w' : Word} :
    mkDescriptor we size addr w = mkDescriptor we' size' addr' w' ↔
      we = we' ∧ size = size' ∧ addr = addr' ∧ w = w' := by
  constructor
  · intro h
    refine ⟨?_, ?_, ?_, ?_⟩
    · simpa using congrArg fieldWE h
    · simpa using congrArg fieldSIZE h
    · simpa using congrArg fieldADDR h
    · simpa using congrArg fieldWDATA h
  · rintro ⟨rfl, rfl, rfl, rfl⟩; rfl

/-- A descriptor under a mask, field by field (R80). -/
theorem and_mkDescriptor (d : Descriptor) (we : Bool) (size : Size) (addr : Offset) (w : Word) :
    d &&& mkDescriptor we size addr w =
      mkDescriptor (fieldWE d && we) (fieldSIZE d &&& size) (fieldADDR d &&& addr) (fieldWDATA d &&& w) := by
  conv => lhs; rw [← mkDescriptor_fields d]
  exact mkDescriptor_and ..

/-- Under the mask of a whole top byte a descriptor matches a pattern when WE, SIZE and ADDR are the pattern's. -/
theorem and_topByte (d : Descriptor) (we : Bool) (size : Size) (addr : Offset) :
    d &&& 0xFF00000000#40 = mkDescriptor we size addr 0#32 ↔
      fieldWE d = we ∧ fieldSIZE d = size ∧ fieldADDR d = addr := by
  rw [show (0xFF00000000#40 : Descriptor) = mkDescriptor true 0b11#2 0b11111#5 0#32 from rfl, and_mkDescriptor,
    mkDescriptor_inj]
  have h2 : fieldSIZE d &&& 0b11#2 = fieldSIZE d := BitVec.and_allOnes
  have h3 : fieldADDR d &&& 0b11111#5 = fieldADDR d := BitVec.and_allOnes
  simp [h2, h3]

/-- Under the full mask a descriptor matches only itself. -/
theorem and_fullMask (d : Descriptor) : d &&& 0xFFFFFFFFFF#40 = d := BitVec.and_allOnes

/-- Everything the decoder can answer, in the order of the tests of R79. -/
theorem decode_cases (d : Descriptor) :
    (fieldSIZE d = 0b00#2 ∧ decode d = .buserrSizeByte (fieldWE d) (fieldADDR d) (fieldWDATA d)) ∨
    (fieldSIZE d = 0b01#2 ∧ decode d = .buserrSizeHalf (fieldWE d) (fieldADDR d) (fieldWDATA d)) ∨
    (fieldSIZE d = 0b11#2 ∧ decode d = .buserrSizeReserved (fieldWE d) (fieldADDR d) (fieldWDATA d)) ∨
    (fieldSIZE d = 0b10#2 ∧
      ((addrLow (fieldADDR d) = 0b01#2 ∧
          decode d = .buserrAlign1 (fieldWE d) (addrSlot (fieldADDR d)) (fieldWDATA d)) ∨
       (addrLow (fieldADDR d) = 0b10#2 ∧
          decode d = .buserrAlign2 (fieldWE d) (addrSlot (fieldADDR d)) (fieldWDATA d)) ∨
       (addrLow (fieldADDR d) = 0b11#2 ∧
          decode d = .buserrAlign3 (fieldWE d) (addrSlot (fieldADDR d)) (fieldWDATA d)) ∨
       (fieldADDR d = 0x1C#5 ∧ decode d = .buserrUnmapped (fieldWE d) (fieldWDATA d)) ∨
       ∃ r : Reg, fieldADDR d = r.offset ∧
         ((fieldWE d = false ∧ decode d = decodeRead r) ∨
          (fieldWE d = true ∧ decode d = decodeWrite (fieldWDATA d) r)))) := by
  have two : ∀ x : BitVec 2, x ≠ 0b00#2 → x ≠ 0b01#2 → x ≠ 0b11#2 → x = 0b10#2 := by decide
  have low : ∀ x : BitVec 2, x ≠ 0b01#2 → x ≠ 0b10#2 → x ≠ 0b11#2 → x = 0b00#2 := by decide
  unfold decode decodeFields
  split
  · exact .inl ⟨by assumption, rfl⟩
  split
  · exact .inr (.inl ⟨by assumption, rfl⟩)
  split
  · exact .inr (.inr (.inl ⟨by assumption, rfl⟩))
  refine .inr (.inr (.inr ⟨two _ (by assumption) (by assumption) (by assumption), ?_⟩))
  split
  · exact .inl ⟨by assumption, rfl⟩
  split
  · exact .inr (.inl ⟨by assumption, rfl⟩)
  split
  · exact .inr (.inr (.inl ⟨by assumption, rfl⟩))
  refine .inr (.inr (.inr ?_))
  have hlow : addrLow (fieldADDR d) = 0b00#2 := low _ (by assumption) (by assumption) (by assumption)
  split
  · next h => exact .inl ⟨(Reg.ofSlot_eq_none _ hlow).mp h, rfl⟩
  · next r h =>
    refine .inr ⟨r, (Reg.ofSlot_eq_some _ r hlow).mp h, ?_⟩
    cases fieldWE d
    · exact .inl ⟨rfl, rfl⟩
    · exact .inr ⟨rfl, rfl⟩

/-- What a command word selects (R75). -/
theorem decodeCommand_cases (w : Word) :
    (w = 0#32 ∧ decodeCommand w = .ctrlNop) ∨ (w = 1#32 ∧ decodeCommand w = .init) ∨
    (w = 2#32 ∧ decodeCommand w = .check) ∨
    (w ≠ 0#32 ∧ w ≠ 1#32 ∧ w ≠ 2#32 ∧ decodeCommand w = .ctrlIllegal w) := by
  unfold decodeCommand
  split
  · exact .inl ⟨by assumption, rfl⟩
  split
  · exact .inr (.inl ⟨by assumption, rfl⟩)
  split
  · exact .inr (.inr (.inl ⟨by assumption, rfl⟩))
  · exact .inr (.inr (.inr ⟨by assumption, by assumption, by assumption, rfl⟩))

end Sys2Proof
end

