-- ==== Sys2Proof/Laws/PerInstr.lean ====
section
/-! SUPPORT. Per-instruction facts about the syntax. Family EncodesInRow: the encoding of a well-formed instruction
matches the row of the opcode table that its constructor stands for, and the row has its mnemonic (30_encoding.md R80). -/

namespace Sys2Proof.Laws.EncodesInRow

/-- The encoding of the instruction lies in the instruction's own row (R80). -/
def Statement (i : Instr) : Prop :=
  i.wf = true → ∃ row, i.row = some row ∧ row.mnemonic = i.mnemonic ∧ row.holds (encode i) = true

/-- A row given by the fields of its pattern and of its mask holds of a descriptor field by field. -/
theorem holds_fields (n : String) (we pw mw : Bool) (size ps ms : Size) (addr pa ma : Offset) (w : Word)
    (hw : (we && mw) = pw) (hs : size &&& ms = ps) (ha : addr &&& ma = pa) :
    (OpcodeRow.mk n (mkDescriptor pw ps pa 0#32) (mkDescriptor mw ms ma 0#32)).holds
      (mkDescriptor we size addr w) = true := by
  unfold OpcodeRow.holds
  rw [mkDescriptor_and, hw, hs, ha]
  simp

theorem low_and (s : BitVec 3) (l : BitVec 2) : mkAddr s l &&& 0b00011#5 = l.setWidth 5 := by
  revert s l; decide

theorem buserrSizeByte (we : Bool) (a : Offset) (w : Word) : Statement (.buserrSizeByte we a w) :=
  fun _ => ⟨_, rfl, rfl, holds_fields _ we false false 0b00#2 0b00#2 0b11#2 a 0#5 0#5 w (by simp) rfl (by simp)⟩

theorem buserrSizeHalf (we : Bool) (a : Offset) (w : Word) : Statement (.buserrSizeHalf we a w) :=
  fun _ => ⟨_, rfl, rfl, holds_fields _ we false false 0b01#2 0b01#2 0b11#2 a 0#5 0#5 w (by simp) rfl (by simp)⟩

theorem buserrSizeReserved (we : Bool) (a : Offset) (w : Word) : Statement (.buserrSizeReserved we a w) :=
  fun _ => ⟨_, rfl, rfl, holds_fields _ we false false 0b11#2 0b11#2 0b11#2 a 0#5 0#5 w (by simp) rfl (by simp)⟩

theorem buserrAlign1 (we : Bool) (s : BitVec 3) (w : Word) : Statement (.buserrAlign1 we s w) :=
  fun _ => ⟨_, rfl, rfl,
    holds_fields _ we false false 0b10#2 0b10#2 0b11#2 (mkAddr s 0b01#2) 1#5 3#5 w (by simp) rfl (low_and s 0b01#2)⟩

theorem buserrAlign2 (we : Bool) (s : BitVec 3) (w : Word) : Statement (.buserrAlign2 we s w) :=
  fun _ => ⟨_, rfl, rfl,
    holds_fields _ we false false 0b10#2 0b10#2 0b11#2 (mkAddr s 0b10#2) 2#5 3#5 w (by simp) rfl (low_and s 0b10#2)⟩

theorem buserrAlign3 (we : Bool) (s : BitVec 3) (w : Word) : Statement (.buserrAlign3 we s w) :=
  fun _ => ⟨_, rfl, rfl,
    holds_fields _ we false false 0b10#2 0b10#2 0b11#2 (mkAddr s 0b11#2) 3#5 3#5 w (by simp) rfl (low_and s 0b11#2)⟩

theorem buserrUnmapped (we : Bool) (w : Word) : Statement (.buserrUnmapped we w) :=
  fun _ => ⟨_, rfl, rfl, holds_fields _ we false false 0b10#2 0b10#2 0b11#2 0x1C#5 0x1C#5 0x1F#5 w (by simp) rfl rfl⟩

/-- A write row holds of every write of its register. -/
theorem holds_write (n : String) (r : Reg) (w : Word) :
    (OpcodeRow.mk n (mkDescriptor true 0b10#2 r.offset 0#32) 0xFF00000000#40).holds (encodeWrite r w) = true :=
  holds_fields n true true true 0b10#2 0b10#2 0b11#2 r.offset r.offset 0x1F#5 w rfl rfl BitVec.and_allOnes

theorem rdCtrl : Statement .rdCtrl := fun _ => ⟨_, rfl, rfl, by decide⟩
theorem rdStatus : Statement .rdStatus := fun _ => ⟨_, rfl, rfl, by decide⟩
theorem rdData8 : Statement .rdData8 := fun _ => ⟨_, rfl, rfl, by decide⟩
theorem rdData32 : Statement .rdData32 := fun _ => ⟨_, rfl, rfl, by decide⟩
theorem rdExpect : Statement .rdExpect := fun _ => ⟨_, rfl, rfl, by decide⟩
theorem rdResult : Statement .rdResult := fun _ => ⟨_, rfl, rfl, by decide⟩
theorem rdCount : Statement .rdCount := fun _ => ⟨_, rfl, rfl, by decide⟩
theorem ctrlNop : Statement .ctrlNop := fun _ => ⟨_, rfl, rfl, by decide⟩
theorem init : Statement .init := fun _ => ⟨_, rfl, rfl, by decide⟩
theorem check : Statement .check := fun _ => ⟨_, rfl, rfl, by decide⟩
theorem ctrlIllegal (w : Word) : Statement (.ctrlIllegal w) := fun _ => ⟨_, rfl, rfl, holds_write _ .ctrl w⟩
theorem wrStatus (w : Word) : Statement (.wrStatus w) := fun _ => ⟨_, rfl, rfl, holds_write _ .status w⟩
theorem feed8 (b : Byte) : Statement (.feed8 b) := fun _ => ⟨_, rfl, rfl, holds_write _ .data8 _⟩
theorem feed32 (w : Word) : Statement (.feed32 w) := fun _ => ⟨_, rfl, rfl, holds_write _ .data32 w⟩
theorem wrExpect (w : Word) : Statement (.wrExpect w) := fun _ => ⟨_, rfl, rfl, holds_write _ .expect w⟩
theorem wrResult (w : Word) : Statement (.wrResult w) := fun _ => ⟨_, rfl, rfl, holds_write _ .result w⟩
theorem wrCount (w : Word) : Statement (.wrCount w) := fun _ => ⟨_, rfl, rfl, holds_write _ .count w⟩

end Sys2Proof.Laws.EncodesInRow
end

