-- ==== Sys2Proof/Laws/State.lean ====
section
/-! SUPPORT. One lemma per field per update of the state and of the unit's state, each true by definition. -/

namespace Sys2Proof.Machine

/-! ## Responses and the bus error -/

section State
variable (s : State) (u : UnitState) (v : Word) (e : Bool) (f : Fault) (r : Reg) (es : List HostEvent)

@[simp] theorem State.respond_unit : (s.respond v e).unit = s.unit := rfl
@[simp] theorem State.respond_response : (s.respond v e).response = some ⟨v, e⟩ := rfl
@[simp] theorem State.respond_pending : (s.respond v e).pending = s.pending := rfl
@[simp] theorem State.respond_faults : (s.respond v e).faults = s.faults := rfl

@[simp] theorem State.ackWrite_unit : (s.ackWrite u).unit = u := rfl
@[simp] theorem State.ackWrite_response : (s.ackWrite u).response = some ⟨0#32, false⟩ := rfl
@[simp] theorem State.ackWrite_pending : (s.ackWrite u).pending = s.pending := rfl
@[simp] theorem State.ackWrite_faults : (s.ackWrite u).faults = s.faults := rfl

@[simp] theorem State.ackRead_unit : (s.ackRead r).unit = s.unit := rfl
@[simp] theorem State.ackRead_response : (s.ackRead r).response = some ⟨s.unit.read r, false⟩ := rfl
@[simp] theorem State.ackRead_pending : (s.ackRead r).pending = s.pending := rfl
@[simp] theorem State.ackRead_faults : (s.ackRead r).faults = s.faults := rfl

@[simp] theorem State.recordFault_unit : (s.recordFault f).unit = s.unit := rfl
@[simp] theorem State.recordFault_response : (s.recordFault f).response = s.response := rfl
@[simp] theorem State.recordFault_pending : (s.recordFault f).pending = s.pending := rfl
@[simp] theorem State.recordFault_faults : (s.recordFault f).faults = s.faults ++ [f] := rfl

@[simp] theorem State.raiseBusError_unit : (s.raiseBusError f).unit = s.unit := rfl
@[simp] theorem State.raiseBusError_response : (s.raiseBusError f).response = some ⟨0#32, true⟩ := rfl
@[simp] theorem State.raiseBusError_pending : (s.raiseBusError f).pending = s.pending := rfl
@[simp] theorem State.raiseBusError_faults : (s.raiseBusError f).faults = s.faults ++ [f] := rfl

@[simp] theorem State.applyReset_unit : s.applyReset.unit = UnitState.reset := rfl
@[simp] theorem State.applyReset_response : s.applyReset.response = s.response := rfl
@[simp] theorem State.applyReset_pending : s.applyReset.pending = s.pending := rfl
@[simp] theorem State.applyReset_faults : s.applyReset.faults = s.faults := rfl

@[simp] theorem State.submit_unit : (s.submit es).unit = s.unit := rfl
@[simp] theorem State.submit_response : (s.submit es).response = s.response := rfl
@[simp] theorem State.submit_pending : (s.submit es).pending = s.pending ++ es := rfl
@[simp] theorem State.submit_faults : (s.submit es).faults = s.faults := rfl

end State

/-! ## The unit's registers -/

section Unit
variable (u : UnitState) (b : Byte) (w : Word)

@[simp] theorem UnitState.feed_regS : (u.feed b).regS = crcUpdateByte u.regS b := rfl
@[simp] theorem UnitState.feed_count : (u.feed b).count = u.count + 1#32 := rfl
@[simp] theorem UnitState.feed_expect : (u.feed b).expect = u.expect := rfl
@[simp] theorem UnitState.feed_done : (u.feed b).done = u.done := rfl
@[simp] theorem UnitState.feed_matched : (u.feed b).matched = u.matched := rfl
@[simp] theorem UnitState.feed_cmdErr : (u.feed b).cmdErr = u.cmdErr := rfl
@[simp] theorem UnitState.feed_cntOvf : (u.feed b).cntOvf = (u.cntOvf || u.count == 0xFFFFFFFF#32) := rfl

@[simp] theorem UnitState.clearCheck_regS : u.clearCheck.regS = u.regS := rfl
@[simp] theorem UnitState.clearCheck_count : u.clearCheck.count = u.count := rfl
@[simp] theorem UnitState.clearCheck_expect : u.clearCheck.expect = u.expect := rfl
@[simp] theorem UnitState.clearCheck_done : u.clearCheck.done = false := rfl
@[simp] theorem UnitState.clearCheck_matched : u.clearCheck.matched = false := rfl
@[simp] theorem UnitState.clearCheck_cmdErr : u.clearCheck.cmdErr = u.cmdErr := rfl
@[simp] theorem UnitState.clearCheck_cntOvf : u.clearCheck.cntOvf = u.cntOvf := rfl

@[simp] theorem UnitState.initialise_regS : u.initialise.regS = crcInitial := rfl
@[simp] theorem UnitState.initialise_count : u.initialise.count = 0#32 := rfl
@[simp] theorem UnitState.initialise_expect : u.initialise.expect = u.expect := rfl
@[simp] theorem UnitState.initialise_done : u.initialise.done = false := rfl
@[simp] theorem UnitState.initialise_matched : u.initialise.matched = false := rfl
@[simp] theorem UnitState.initialise_cmdErr : u.initialise.cmdErr = false := rfl
@[simp] theorem UnitState.initialise_cntOvf : u.initialise.cntOvf = false := rfl

@[simp] theorem UnitState.checkResult_regS : u.checkResult.regS = u.regS := rfl
@[simp] theorem UnitState.checkResult_count : u.checkResult.count = u.count := rfl
@[simp] theorem UnitState.checkResult_expect : u.checkResult.expect = u.expect := rfl
@[simp] theorem UnitState.checkResult_done : u.checkResult.done = true := rfl
@[simp] theorem UnitState.checkResult_matched : u.checkResult.matched = u.compare := rfl
@[simp] theorem UnitState.checkResult_cmdErr : u.checkResult.cmdErr = u.cmdErr := rfl
@[simp] theorem UnitState.checkResult_cntOvf : u.checkResult.cntOvf = u.cntOvf := rfl

@[simp] theorem UnitState.flagIllegalCommand_regS : u.flagIllegalCommand.regS = u.regS := rfl
@[simp] theorem UnitState.flagIllegalCommand_count : u.flagIllegalCommand.count = u.count := rfl
@[simp] theorem UnitState.flagIllegalCommand_expect : u.flagIllegalCommand.expect = u.expect := rfl
@[simp] theorem UnitState.flagIllegalCommand_done : u.flagIllegalCommand.done = u.done := rfl
@[simp] theorem UnitState.flagIllegalCommand_matched : u.flagIllegalCommand.matched = u.matched := rfl
@[simp] theorem UnitState.flagIllegalCommand_cmdErr : u.flagIllegalCommand.cmdErr = true := rfl
@[simp] theorem UnitState.flagIllegalCommand_cntOvf : u.flagIllegalCommand.cntOvf = u.cntOvf := rfl

@[simp] theorem UnitState.writeExpect_regS : (u.writeExpect w).regS = u.regS := rfl
@[simp] theorem UnitState.writeExpect_count : (u.writeExpect w).count = u.count := rfl
@[simp] theorem UnitState.writeExpect_expect : (u.writeExpect w).expect = w := rfl
@[simp] theorem UnitState.writeExpect_done : (u.writeExpect w).done = false := rfl
@[simp] theorem UnitState.writeExpect_matched : (u.writeExpect w).matched = false := rfl
@[simp] theorem UnitState.writeExpect_cmdErr : (u.writeExpect w).cmdErr = u.cmdErr := rfl
@[simp] theorem UnitState.writeExpect_cntOvf : (u.writeExpect w).cntOvf = u.cntOvf := rfl

end Unit

end Sys2Proof.Machine
end

