-- ==== Sys2Proof/Laws/Unit.lean ====
section
/-! SUPPORT. What feeding a sequence of bytes does to each register of the unit (40_crc_core.md R92, R96), the bits of
the STATUS word (10_state.md R24), and the operands' bytes (30_encoding.md R77). -/

namespace Sys2Proof.Machine

section Feed
variable (u : UnitState)

@[simp] theorem UnitState.feedAll_nil : u.feedAll [] = u := rfl

@[simp] theorem UnitState.feedAll_cons (b : Byte) (m : List Byte) :
    u.feedAll (b :: m) = (u.feed b).feedAll m := rfl

@[simp] theorem UnitState.feedAll_append (m n : List Byte) :
    u.feedAll (m ++ n) = (u.feedAll m).feedAll n := List.foldl_append ..

@[simp] theorem UnitState.feedAll_regS (m : List Byte) : (u.feedAll m).regS = crcFold u.regS m := by
  induction m generalizing u with
  | nil => rfl
  | cons b m ih => simp [ih]

@[simp] theorem UnitState.feedAll_expect (m : List Byte) : (u.feedAll m).expect = u.expect := by
  induction m generalizing u with
  | nil => rfl
  | cons b m ih => simp [ih]

@[simp] theorem UnitState.feedAll_done (m : List Byte) : (u.feedAll m).done = u.done := by
  induction m generalizing u with
  | nil => rfl
  | cons b m ih => simp [ih]

@[simp] theorem UnitState.feedAll_matched (m : List Byte) : (u.feedAll m).matched = u.matched := by
  induction m generalizing u with
  | nil => rfl
  | cons b m ih => simp [ih]

@[simp] theorem UnitState.feedAll_cmdErr (m : List Byte) : (u.feedAll m).cmdErr = u.cmdErr := by
  induction m generalizing u with
  | nil => rfl
  | cons b m ih => simp [ih]

/-- Each byte adds 1 to COUNT, modulo 2^32 (R22, R92). -/
theorem UnitState.feedAll_count (m : List Byte) :
    (u.feedAll m).count = u.count + BitVec.ofNat 32 m.length := by
  induction m generalizing u with
  | nil => simp
  | cons b m ih =>
    rw [feedAll_cons, ih, feed_count, List.length_cons, BitVec.add_assoc]
    congr 1
    apply BitVec.eq_of_toNat_eq
    simp [Nat.add_comm]

/-- CNTOVF records whether COUNT has wrapped (R22, R92). -/
theorem UnitState.feedAll_cntOvf (m : List Byte) :
    (u.feedAll m).cntOvf = (u.cntOvf || decide (2 ^ 32 ≤ u.count.toNat + m.length)) := by
  induction m generalizing u with
  | nil => have := u.count.isLt; simp; omega
  | cons b m ih =>
    rw [feedAll_cons, ih, feed_cntOvf, feed_count, List.length_cons, Bool.or_assoc]
    congr 1
    have hlt := u.count.isLt
    by_cases h : u.count = 0xFFFFFFFF#32
    · rw [h]
      have h2 : (2 : Nat) ^ 32 ≤ (0xFFFFFFFF#32).toNat + (m.length + 1) := by
        rw [show (0xFFFFFFFF#32).toNat = 2 ^ 32 - 1 from rfl]; omega
      simp only [beq_self_eq_true, Bool.true_or, decide_eq_true h2]
    · have hne : u.count.toNat ≠ 2 ^ 32 - 1 := fun hc => h (BitVec.eq_of_toNat_eq hc)
      have hadd : (u.count + 1#32).toNat = u.count.toNat + 1 := by
        rw [BitVec.toNat_add]
        exact Nat.mod_eq_of_lt (by rw [show (1#32).toNat = 1 from rfl]; omega)
      rw [hadd, beq_false_of_ne h, Bool.false_or]
      congr 1
      rw [Nat.add_assoc, Nat.add_comm 1]

/-- Feeding changes nothing but S, COUNT and CNTOVF (R92). -/
theorem UnitState.feedAll_eq (m : List Byte) :
    u.feedAll m = { u with
      regS := crcFold u.regS m
      count := u.count + BitVec.ofNat 32 m.length
      cntOvf := u.cntOvf || decide (2 ^ 32 ≤ u.count.toNat + m.length) } := by
  have h : ∀ a b : UnitState, a.regS = b.regS → a.count = b.count → a.expect = b.expect → a.done = b.done →
      a.matched = b.matched → a.cmdErr = b.cmdErr → a.cntOvf = b.cntOvf → a = b := by
    intro a b h1 h2 h3 h4 h5 h6 h7
    cases a; cases b; simp_all
  apply h <;> simp [feedAll_count, feedAll_cntOvf]

end Feed

@[simp] theorem beBytes_length (w : Word) : (beBytes w).length = 4 := rfl

/-- `BEBYTES` is the inverse of `BE32` (R9). -/
@[simp] theorem beBytes_be32 (b0 b1 b2 b3 : Byte) : beBytes (be32 b0 b1 b2 b3) = [b0, b1, b2, b3] := by
  have h : ∀ (k : Nat) (b : Byte), k + 8 ≤ 32 →
      (∀ i, i < 8 → (be32 b0 b1 b2 b3).getLsbD (k + i) = b.getLsbD i) →
      (be32 b0 b1 b2 b3).extractLsb' k 8 = b := by
    intro k b _ hb
    apply BitVec.eq_of_getLsbD_eq
    intro i hi
    simp [hi, hb i hi]
  have bits : ∀ i, (be32 b0 b1 b2 b3).getLsbD i =
      if i < 8 then b3.getLsbD i else if i - 8 < 8 then b2.getLsbD (i - 8)
      else if i - 8 - 8 < 8 then b1.getLsbD (i - 8 - 8) else b0.getLsbD (i - 8 - 8 - 8) := by
    intro i; unfold be32; simp only [BitVec.getLsbD_append]
  unfold beBytes
  rw [h 24 b0 (by omega), h 16 b1 (by omega), h 8 b2 (by omega), h 0 b3 (by omega)]
  all_goals intro i hi; rw [bits]
  · rw [if_pos (by omega)]; congr 1; omega
  · rw [if_neg (by omega), if_pos (by omega)]; congr 1; omega
  · rw [if_neg (by omega), if_neg (by omega), if_pos (by omega)]; congr 1; omega
  · rw [if_neg (by omega), if_neg (by omega), if_neg (by omega)]; congr 1; omega

/-- The STATUS word as a number (R123). -/
theorem UnitState.status_toNat (u : UnitState) :
    u.status.toNat = u.cntOvf.toNat * 8 + u.cmdErr.toNat * 4 + u.matched.toNat * 2 + u.done.toNat := by
  unfold status
  cases u.cntOvf <;> cases u.cmdErr <;> cases u.matched <;> cases u.done <;> rfl

theorem UnitState.status_bit0 (u : UnitState) : u.status.getLsbD 0 = u.done := by
  unfold status
  cases u.cntOvf <;> cases u.cmdErr <;> cases u.matched <;> cases u.done <;> rfl

theorem UnitState.status_bit1 (u : UnitState) : u.status.getLsbD 1 = u.matched := by
  unfold status
  cases u.cntOvf <;> cases u.cmdErr <;> cases u.matched <;> cases u.done <;> rfl

theorem UnitState.status_bit2 (u : UnitState) : u.status.getLsbD 2 = u.cmdErr := by
  unfold status
  cases u.cntOvf <;> cases u.cmdErr <;> cases u.matched <;> cases u.done <;> rfl

theorem UnitState.status_bit3 (u : UnitState) : u.status.getLsbD 3 = u.cntOvf := by
  unfold status
  cases u.cntOvf <;> cases u.cmdErr <;> cases u.matched <;> cases u.done <;> rfl

end Sys2Proof.Machine
end

