-- ==== Sys2Proof/Laws/Step.lean ====
section
/-! SUPPORT. What one transaction and one step can do, said once (00_scope.md R11; 41_operations.md R127). -/

namespace Sys2Proof.Machine

/-- A transaction ends in a next state, in which the events still waiting are the same, a response stands
and recorded faults are kept (R127, D25). -/
theorem exec_shape (i : Instr) (s : State) :
    ∃ u r fs, exec i s = .next { s with unit := u, response := some r, faults := s.faults ++ fs } := by
  have quiet : ∀ u r, ∃ u' r' fs, (Host.Outcome.next { s with unit := u, response := some r } :
      Host.Outcome State Fault Refusal) =
      .next { s with unit := u', response := some r', faults := s.faults ++ fs } :=
    fun u r => ⟨u, r, [], by simp⟩
  cases i
  case ctrlIllegal => exact ⟨_, _, [.cmdErr], rfl⟩
  case buserrUnmapped => exact ⟨s.unit, _, [.busErrUnmapped], rfl⟩
  case buserrSizeByte => exact ⟨s.unit, _, [.busErrSize], rfl⟩
  case buserrSizeHalf => exact ⟨s.unit, _, [.busErrSize], rfl⟩
  case buserrSizeReserved => exact ⟨s.unit, _, [.busErrSize], rfl⟩
  case buserrAlign1 => exact ⟨s.unit, _, [.busErrAlign], rfl⟩
  case buserrAlign2 => exact ⟨s.unit, _, [.busErrAlign], rfl⟩
  case buserrAlign3 => exact ⟨s.unit, _, [.busErrAlign], rfl⟩
  all_goals exact quiet _ _

section StepLemmas
variable (s : State) (rest : List HostEvent)

/-- With no event waiting the machine stays as it is (R127). -/
theorem step_of_no_event (h : s.pending = []) : step s = .next s := by
  simp [step, State.takeEvent, h]

/-- A step with an event waiting, by what arrives at the unit (R11). -/
theorem step_cons (e : HostEvent) :
    step { s with pending := e :: rest } =
      match e.deliver with
      | .transaction t => exec (decode t) { s with pending := rest }
      | .reset => .next ({ s with pending := rest } : State).applyReset
      | .notForUnit => .next { s with pending := rest } := rfl

end StepLemmas

/-- Everything a step that ends in `t` did (R11): nothing waited; or the reset was applied; or an access
passed the unit by; or a transaction was executed. -/
theorem step_cases {s t : State} (h : step s = .next t) :
    (s.pending = [] ∧ t = s) ∨
    (∃ e rest, s.pending = e :: rest ∧
      ((e.deliver = .reset ∧ t = ({ s with pending := rest } : State).applyReset) ∨
       (e.deliver = .notForUnit ∧ t = { s with pending := rest }) ∨
       (∃ d, e.deliver = .transaction d ∧ exec (decode d) { s with pending := rest } = .next t))) := by
  cases hp : s.pending with
  | nil =>
    rw [step_of_no_event s hp] at h
    exact .inl ⟨rfl, by injection h with h; exact h.symm⟩
  | cons e rest =>
    refine .inr ⟨e, rest, rfl, ?_⟩
    have hs : step s = step { s with pending := e :: rest } := by rw [← hp]
    rw [hs, step_cons] at h
    split at h
    · next d hd => exact .inr (.inr ⟨d, hd, h⟩)
    · next hd => injection h with h; exact .inl ⟨hd, h.symm⟩
    · next hd => injection h with h; exact .inr (.inl ⟨hd, h.symm⟩)

@[simp] theorem run_zero (s : State) : run 0 s = .next s := rfl

theorem run_succ {s t : State} (n : Nat) (h : step s = .next t) : run (n + 1) s = run n t := by
  simp only [run, h]

/-- A run of `m + n` steps is a run of `m` and then of `n` (R60). -/
theorem run_add {s t : State} {m : Nat} (n : Nat) (h : run m s = .next t) : run (m + n) s = run n t := by
  induction m generalizing s with
  | zero =>
    injection h with h
    rw [Nat.zero_add, h]
  | succ m ih =>
    rw [Nat.succ_add]
    cases hs : step s with
    | next s1 =>
      rw [run_succ _ hs] at h ⊢
      exact ih h
    | fault f => simp [run, hs] at h
    | refused r => simp [run, hs] at h

end Sys2Proof.Machine
end

