-- ==== Sys2Proof/Tests/Slice0.lean ====
section
/-! SUPPORT. The model's own tests. Expected results come from spec/: the vectors V1 to V44 of 95_test_vectors.md L2-6, the
words of 30_encoding.md and 41_operations.md written out bit by bit, the values of 40_crc_core.md, and the text of R83 to R85. At the
end stands a witness for every statement that has hypotheses. -/

namespace Sys2Proof.Tests

open Sys2Proof.Machine

/-! ## WellFormed refuses what stands for no descriptor (R113) -/

theorem test_wf_refuses_illegal_zero : (Instr.ctrlIllegal 0#32).wf = false := by decide
theorem test_wf_refuses_illegal_one : (Instr.ctrlIllegal 1#32).wf = false := by decide
theorem test_wf_refuses_illegal_two : (Instr.ctrlIllegal 2#32).wf = false := by decide
theorem test_wf_takes_illegal_three : (Instr.ctrlIllegal 3#32).wf = true := by decide

/-! ## Decoding: one word for every constructor, WE SIZE ADDR WDATA bit by bit (R70, R79) -/

/-- WR.B DATA8, 0x41 (R129, V37). -/
theorem test_decode_buserr_size_byte : decode 0b1000100000000000000000000000000001000001#40 = .buserrSizeByte true 0x08#5 0x41#32 := by decide

/-- RD.H STATUS (V38). -/
theorem test_decode_buserr_size_half : decode 0b0010010000000000000000000000000000000000#40 = .buserrSizeHalf false 0x04#5 0#32 := by decide

/-- WR.X @0x1D: SIZE wins over ALIGN (V39). -/
theorem test_decode_buserr_size_reserved : decode 0b1111110100000000000000000000000000000001#40 = .buserrSizeReserved true 0x1D#5 1#32 := by decide

/-- WR @0x01 (V42). -/
theorem test_decode_buserr_align1 : decode 0b1100000100000000000000000000000000000001#40 = .buserrAlign1 true 0#3 1#32 := by decide

/-- RD @0x06 (R130, V40). -/
theorem test_decode_buserr_align2 : decode 0b0100011000000000000000000000000000000000#40 = .buserrAlign2 false 1#3 0#32 := by decide

/-- WR @0x1F: ALIGN wins over UNMAPPED (V41). -/
theorem test_decode_buserr_align3 : decode 0b1101111100000000000000000000000000000001#40 = .buserrAlign3 true 7#3 1#32 := by decide

/-- WR @0x1C, 5 (R131, V44). -/
theorem test_decode_buserr_unmapped : decode 0b1101110000000000000000000000000000000101#40 = .buserrUnmapped true 5#32 := by decide

/-- R120. -/
theorem test_decode_rd_ctrl : decode 0b0100000000000000000000000000000000000000#40 = .rdCtrl := by decide

/-- R123; WDATA is ignored (R74, V32). -/
theorem test_decode_rd_status : decode 0b0100010011011110101011011011111011101111#40 = .rdStatus := by decide

/-- R121. -/
theorem test_decode_rd_data8 : decode 0b0100100000000000000000000000000000000000#40 = .rdData8 := by decide

/-- R122. -/
theorem test_decode_rd_data32 : decode 0b0100110000000000000000000000000000000000#40 = .rdData32 := by decide

/-- R124. -/
theorem test_decode_rd_expect : decode 0b0101000000000000000000000000000000000000#40 = .rdExpect := by decide

/-- R125. -/
theorem test_decode_rd_result : decode 0b0101010000000000000000000000000000000000#40 = .rdResult := by decide

/-- R126. -/
theorem test_decode_rd_count : decode 0b0101100000000000000000000000000000000000#40 = .rdCount := by decide

/-- R112. -/
theorem test_decode_ctrl_nop : decode 0b1100000000000000000000000000000000000000#40 = .ctrlNop := by decide

/-- R110. -/
theorem test_decode_init : decode 0b1100000000000000000000000000000000000001#40 = .init := by decide

/-- R111. -/
theorem test_decode_check : decode 0b1100000000000000000000000000000000000010#40 = .check := by decide

/-- R113, R75: it does not INIT. -/
theorem test_decode_ctrl_illegal : decode 0b1100000010000000000000000000000000000001#40 = .ctrlIllegal 0x80000001#32 := by decide

/-- R117. -/
theorem test_decode_wr_status : decode 0b1100010000000000000000000000000000001111#40 = .wrStatus 0xF#32 := by decide

/-- R114, R76: WDATA[31:8] is ignored. -/
theorem test_decode_feed8 : decode 0b1100100000000000000000000000000111111111#40 = .feed8 0xFF#8 := by decide

/-- R115, R83: 0xCC49454E44. -/
theorem test_decode_feed32 : decode 0b1100110001001001010001010100111001000100#40 = .feed32 0x49454E44#32 := by decide

/-- R116. -/
theorem test_decode_wr_expect : decode 0b1101000010101011110100011101100001001110#40 = .wrExpect 0xABD1D84E#32 := by decide

/-- R118. -/
theorem test_decode_wr_result : decode 0b1101010000000000000000000000000000000000#40 = .wrResult 0#32 := by decide

/-- R119. -/
theorem test_decode_wr_count : decode 0b1101100000000000000000000000000000000111#40 = .wrCount 7#32 := by decide

/-- R75: 0x00000003 is illegal, "not both". -/
theorem test_decode_both_strobes : decode 0xC000000003#40 = .ctrlIllegal 3#32 := by decide

/-- R70: no transaction is longer than 40 bits. -/
theorem test_decode_too_wide : decodeNumber (2 ^ 40) = .error .notFortyBits := by decide

/-- The table's word of FEED32 as the host numbers it (assumption 18). -/
theorem test_decode_table_word : decodeTableWord 40 0xCC49454E44 = some (.feed32 0x49454E44#32) := by decide

/-- The word placed for the next step is the one that runs (assumption 2). -/
theorem test_with_fetch_word : step (State.reset.withFetchWord 40 0xD0AE426082) =
    .next { State.reset with unit := { UnitState.reset with expect := 0xAE426082#32 }, response := some ⟨0#32, false⟩ } := rfl

/-! ## The vectors of L2-6: one step each -/

/-- A unit from S, COUNT, EXPECT and STATUS[3:0], as the vectors give it (R24). -/
def unitOf (s c e : Word) (st : BitVec 4) : UnitState :=
  ⟨s, c, e, st.getLsbD 0, st.getLsbD 1, st.getLsbD 2, st.getLsbD 3⟩

/-- The unit and the response after one step that brings one transaction. -/
def oneStep (t : Descriptor) (u : UnitState) : Option (UnitState × Option Response) :=
  match step { State.reset with unit := u, pending := [.transaction t] } with
  | .next s => some (s.unit, s.response)
  | .fault _ => none
  | .refused _ => none

/-- V1: mid-stream, all four flags set; `WR CTRL, 0x00000001`. -/
theorem test_v1_init : oneStep 0xC000000001#40 (unitOf 0x51BD9F7D#32 0x00000004#32 0xAE426082#32 15#4) =
    some ((unitOf 0xFFFFFFFF#32 0x00000000#32 0xAE426082#32 0#4), some ⟨0x00000000#32, false⟩) := by decide +kernel

/-- V4: mismatch by one; `WR CTRL, 0x00000002`. -/
theorem test_v4_check : oneStep 0xC000000002#40 (unitOf 0x51BD9F7D#32 0x00000004#32 0xAE426083#32 0#4) =
    some ((unitOf 0x51BD9F7D#32 0x00000004#32 0xAE426083#32 1#4), some ⟨0x00000000#32, false⟩) := by decide +kernel

/-- V6: with CMDERR and CNTOVF set, match; `WR CTRL, 0x00000002`. -/
theorem test_v6_check : oneStep 0xC000000002#40 (unitOf 0xFFFFFFFF#32 0x00000000#32 0x00000000#32 12#4) =
    some ((unitOf 0xFFFFFFFF#32 0x00000000#32 0x00000000#32 15#4), some ⟨0x00000000#32, false⟩) := by decide +kernel

/-- V8: keeps DONE/MATCH; `WR CTRL, 0x00000000`. -/
theorem test_v8_ctrl_nop : oneStep 0xC000000000#40 (unitOf 0x51BD9F7D#32 0x00000004#32 0xAE426082#32 3#4) =
    some ((unitOf 0x51BD9F7D#32 0x00000004#32 0xAE426082#32 3#4), some ⟨0x00000000#32, false⟩) := by decide +kernel

/-- V9: both strobes 0x3; `WR CTRL, 0x00000003`. -/
theorem test_v9_ctrl_illegal : oneStep 0xC000000003#40 (unitOf 0xFFFFFFFF#32 0x00000000#32 0x00000000#32 0#4) =
    some ((unitOf 0xFFFFFFFF#32 0x00000000#32 0x00000000#32 4#4), some ⟨0x00000000#32, false⟩) := by decide +kernel

/-- V10: reserved bit with INIT bit; `WR CTRL, 0x80000001`. -/
theorem test_v10_ctrl_illegal : oneStep 0xC080000001#40 (unitOf 0x51BD9F7D#32 0x00000004#32 0xAE426082#32 3#4) =
    some ((unitOf 0x51BD9F7D#32 0x00000004#32 0xAE426082#32 7#4), some ⟨0x00000000#32, false⟩) := by decide +kernel

/-- V13: upper bits ignored; `WR DATA8, 0x000001FF`. -/
theorem test_v13_feed8 : oneStep 0xC8000001FF#40 (unitOf 0xFFFFFFFF#32 0x00000000#32 0x00000000#32 0#4) =
    some ((unitOf 0x00FFFFFF#32 0x00000001#32 0x00000000#32 0#4), some ⟨0x00000000#32, false⟩) := by decide +kernel

/-- V16: COUNT 0xFFFFFFFF wraps; `WR DATA8, 0x00000000`. -/
theorem test_v16_feed8 : oneStep 0xC800000000#40 (unitOf 0x2DFD1072#32 0xFFFFFFFF#32 0x00000000#32 0#4) =
    some ((unitOf 0xBE26ED00#32 0x00000000#32 0x00000000#32 8#4), some ⟨0x00000000#32, false⟩) := by decide +kernel

/-- V20: COUNT 0xFFFFFFFC wraps to 0; `WR DATA32, 0x49454E44`. -/
theorem test_v20_feed32 : oneStep 0xCC49454E44#40 (unitOf 0xFFFFFFFF#32 0xFFFFFFFC#32 0x00000000#32 0#4) =
    some ((unitOf 0x51BD9F7D#32 0x00000000#32 0x00000000#32 8#4), some ⟨0x00000000#32, false⟩) := by decide +kernel

/-- V22: "\x89PNG"; `WR DATA32, 0x89504E47`. -/
theorem test_v22_feed32 : oneStep 0xCC89504E47#40 (unitOf 0xFFFFFFFF#32 0x00000000#32 0x00000000#32 0#4) =
    some ((unitOf 0xA414415A#32 0x00000004#32 0x00000000#32 0#4), some ⟨0x00000000#32, false⟩) := by decide +kernel

/-- V23: same value clears DONE/MATCH; `WR EXPECT, 0xAE426082`. -/
theorem test_v23_wr_expect : oneStep 0xD0AE426082#40 (unitOf 0x51BD9F7D#32 0x00000004#32 0xAE426082#32 3#4) =
    some ((unitOf 0x51BD9F7D#32 0x00000004#32 0xAE426082#32 0#4), some ⟨0x00000000#32, false⟩) := by decide +kernel

/-- V24: all ones; `WR EXPECT, 0xFFFFFFFF`. -/
theorem test_v24_wr_expect : oneStep 0xD0FFFFFFFF#40 (unitOf 0xFFFFFFFF#32 0x00000000#32 0x00000000#32 0#4) =
    some ((unitOf 0xFFFFFFFF#32 0x00000000#32 0xFFFFFFFF#32 0#4), some ⟨0x00000000#32, false⟩) := by decide +kernel

/-- V25: ignored; `WR STATUS, 0xFFFFFFFF`. -/
theorem test_v25_wr_status : oneStep 0xC4FFFFFFFF#40 (unitOf 0xFFFFFFFF#32 0x00000000#32 0x00000000#32 4#4) =
    some ((unitOf 0xFFFFFFFF#32 0x00000000#32 0x00000000#32 4#4), some ⟨0x00000000#32, false⟩) := by decide +kernel

/-- V26: ignored; `WR RESULT, 0x00000000`. -/
theorem test_v26_wr_result : oneStep 0xD400000000#40 (unitOf 0x00FFFFFF#32 0x00000001#32 0x00000000#32 0#4) =
    some ((unitOf 0x00FFFFFF#32 0x00000001#32 0x00000000#32 0#4), some ⟨0x00000000#32, false⟩) := by decide +kernel

/-- V27: ignored; `WR COUNT, 0x00000007`. -/
theorem test_v27_wr_count : oneStep 0xD800000007#40 (unitOf 0x00FFFFFF#32 0x00000001#32 0x00000000#32 0#4) =
    some ((unitOf 0x00FFFFFF#32 0x00000001#32 0x00000000#32 0#4), some ⟨0x00000000#32, false⟩) := by decide +kernel

/-- V28: reads 0; `RD CTRL`. -/
theorem test_v28_rd_ctrl : oneStep 0x4000000000#40 (unitOf 0xFFFFFFFF#32 0x00000000#32 0x00000000#32 3#4) =
    some ((unitOf 0xFFFFFFFF#32 0x00000000#32 0x00000000#32 3#4), some ⟨0x00000000#32, false⟩) := by decide +kernel

/-- V29: reads 0, no feed; `RD DATA8`. -/
theorem test_v29_rd_data8 : oneStep 0x4800000000#40 (unitOf 0xFFFFFFFF#32 0x00000000#32 0x00000000#32 0#4) =
    some ((unitOf 0xFFFFFFFF#32 0x00000000#32 0x00000000#32 0#4), some ⟨0x00000000#32, false⟩) := by decide +kernel

/-- V30: reads 0; `RD DATA32`. -/
theorem test_v30_rd_data32 : oneStep 0x4C00000000#40 (unitOf 0xFFFFFFFF#32 0x00000000#32 0x00000000#32 0#4) =
    some ((unitOf 0xFFFFFFFF#32 0x00000000#32 0x00000000#32 0#4), some ⟨0x00000000#32, false⟩) := by decide +kernel

/-- V31: all flags; `RD STATUS`. -/
theorem test_v31_rd_status : oneStep 0x4400000000#40 (unitOf 0xFFFFFFFF#32 0x00000000#32 0x00000000#32 15#4) =
    some ((unitOf 0xFFFFFFFF#32 0x00000000#32 0x00000000#32 15#4), some ⟨0x0000000F#32, false⟩) := by decide +kernel

/-- V32: WDATA ignored on read; `RD STATUS`. -/
theorem test_v32_rd_status : oneStep 0x44DEADBEEF#40 (unitOf 0xFFFFFFFF#32 0x00000000#32 0x00000000#32 5#4) =
    some ((unitOf 0xFFFFFFFF#32 0x00000000#32 0x00000000#32 5#4), some ⟨0x00000005#32, false⟩) := by decide +kernel

/-- V33: RD_EXPECT; `RD EXPECT`. -/
theorem test_v33_rd_expect : oneStep 0x5000000000#40 (unitOf 0xFFFFFFFF#32 0x00000000#32 0xABD1D84D#32 0#4) =
    some ((unitOf 0xFFFFFFFF#32 0x00000000#32 0xABD1D84D#32 0#4), some ⟨0xABD1D84D#32, false⟩) := by decide +kernel

/-- V34: after reset; `RD RESULT`. -/
theorem test_v34_rd_result : oneStep 0x5400000000#40 (unitOf 0xFFFFFFFF#32 0x00000000#32 0x00000000#32 0#4) =
    some ((unitOf 0xFFFFFFFF#32 0x00000000#32 0x00000000#32 0#4), some ⟨0x00000000#32, false⟩) := by decide +kernel

/-- V35: after "RuSt"; `RD RESULT`. -/
theorem test_v35_rd_result : oneStep 0x5400000000#40 (unitOf 0x2B7BF6C3#32 0x00000004#32 0x00000000#32 0#4) =
    some ((unitOf 0x2B7BF6C3#32 0x00000004#32 0x00000000#32 0#4), some ⟨0xD484093C#32, false⟩) := by decide +kernel

/-- V36: RD_COUNT; `RD COUNT`. -/
theorem test_v36_rd_count : oneStep 0x5800000000#40 (unitOf 0xFFFFFFFF#32 0x0000002E#32 0x00000000#32 0#4) =
    some ((unitOf 0xFFFFFFFF#32 0x0000002E#32 0x00000000#32 0#4), some ⟨0x0000002E#32, false⟩) := by decide +kernel

/-- V37: byte write to DATA8; `WR.B DATA8, 0x00000041`. -/
theorem test_v37_buserr_size : oneStep 0x8800000041#40 (unitOf 0xFFFFFFFF#32 0x00000000#32 0x00000000#32 0#4) =
    some ((unitOf 0xFFFFFFFF#32 0x00000000#32 0x00000000#32 0#4), some ⟨0x00000000#32, true⟩) := by decide +kernel

/-- V38: halfword read of STATUS; `RD.H STATUS`. -/
theorem test_v38_buserr_size : oneStep 0x2400000000#40 (unitOf 0xFFFFFFFF#32 0x00000000#32 0x00000000#32 4#4) =
    some ((unitOf 0xFFFFFFFF#32 0x00000000#32 0x00000000#32 4#4), some ⟨0x00000000#32, true⟩) := by decide +kernel

/-- V39: reserved size, misaligned and 0x1C too (SIZE wins); `WR.X @0x1D, 0x00000001`. -/
theorem test_v39_buserr_size : oneStep 0xFD00000001#40 (unitOf 0xFFFFFFFF#32 0x00000000#32 0x00000000#32 0#4) =
    some ((unitOf 0xFFFFFFFF#32 0x00000000#32 0x00000000#32 0#4), some ⟨0x00000000#32, true⟩) := by decide +kernel

/-- V40: read at 0x06; `RD @0x06`. -/
theorem test_v40_buserr_align : oneStep 0x4600000000#40 (unitOf 0xFFFFFFFF#32 0x00000000#32 0x00000000#32 0#4) =
    some ((unitOf 0xFFFFFFFF#32 0x00000000#32 0x00000000#32 0#4), some ⟨0x00000000#32, true⟩) := by decide +kernel

/-- V41: write at 0x1F (ALIGN wins over UNMAPPED); `WR @0x1F, 0x00000001`. -/
theorem test_v41_buserr_align : oneStep 0xDF00000001#40 (unitOf 0xFFFFFFFF#32 0x00000000#32 0x00000000#32 0#4) =
    some ((unitOf 0xFFFFFFFF#32 0x00000000#32 0x00000000#32 0#4), some ⟨0x00000000#32, true⟩) := by decide +kernel

/-- V42: CTRL+1 with INIT data; `WR @0x01, 0x00000001`. -/
theorem test_v42_buserr_align : oneStep 0xC100000001#40 (unitOf 0x51BD9F7D#32 0x00000004#32 0x00000000#32 0#4) =
    some ((unitOf 0x51BD9F7D#32 0x00000004#32 0x00000000#32 0#4), some ⟨0x00000000#32, true⟩) := by decide +kernel

/-- V43: read 0x1C; `RD @0x1C`. -/
theorem test_v43_buserr_unmapped : oneStep 0x5C00000000#40 (unitOf 0xFFFFFFFF#32 0x00000000#32 0x00000000#32 0#4) =
    some ((unitOf 0xFFFFFFFF#32 0x00000000#32 0x00000000#32 0#4), some ⟨0x00000000#32, true⟩) := by decide +kernel

/-- V44: write 0x1C; `WR @0x1C, 0x00000005`. -/
theorem test_v44_buserr_unmapped : oneStep 0xDC00000005#40 (unitOf 0xFFFFFFFF#32 0x00000000#32 0x00000000#32 0#4) =
    some ((unitOf 0xFFFFFFFF#32 0x00000000#32 0x00000000#32 0#4), some ⟨0x00000000#32, true⟩) := by decide +kernel

/-! ## Reset, and accesses at absolute addresses -/

/-- L2-7: reset from the end state of program P2. -/
theorem test_reset_event : step { State.reset with unit := unitOf 0x542E27B1#32 46#32 0xABD1D84D#32 1#4, pending := [.reset] } =
    .next State.reset := rfl

/-- R51: an access at BASE + 0x14 is the read of RESULT. -/
theorem test_access_inside : windowOffset (Config.base + 0x14) = some 0x14#5 := by
  simp [windowOffset, windowSize]

/-- R51: BASE + 0x20 is outside. -/
theorem test_access_outside : windowOffset (Config.base + 0x20) = none := by
  simp [windowOffset, windowSize]

/-- D25: a bus error is recorded and the machine goes on. -/
theorem test_fault_recorded : step { State.reset with pending := [.transaction 0x4600000000#40] } =
    .next { State.reset with response := some ⟨0#32, true⟩, faults := [.busErrAlign] } := rfl

/-! ## The CRC core (40_crc_core.md, 95_test_vectors.md L2-1 to L2-5) -/

/-- L2-1. -/
theorem test_update_first_byte_of_RuSt : crcUpdateByte 0xFFFFFFFF#32 0x52#8 = 0xA89820AA#32 := by decide +kernel

/-- L2-1: the polynomial in reflected form. -/
theorem test_update_poly : crcUpdateByte 0#32 0x80#8 = 0xEDB88320#32 := by decide +kernel

/-- R90: the catalogue check value. -/
theorem test_crc_check_value :
    crc [0x31#8, 0x32#8, 0x33#8, 0x34#8, 0x35#8, 0x36#8, 0x37#8, 0x38#8, 0x39#8] = 0xCBF43926#32 := by decide +kernel

/-- L2-2: "IHDR". -/
theorem test_crc_IHDR : crc (utf8 ['I', 'H', 'D', 'R']) = 0xA8A1AE0A#32 := by decide +kernel

/-- L2-5: affinity on the spec's own instance. -/
theorem test_crc_affine_instance : crc [0x1B#8, 0x30#8, 0x1D#8, 0x30#8] = 0x5B82B6A2#32 := by decide +kernel

/-- L1-3's MATCH column against R111: after a CHECK that finds a mismatch MATCH is 0, not the 1 that column prints
(here "IEND" against the EXPECT of L1-1; assumption 15). -/
theorem test_mismatch_is_match_zero : oneStep 0xC000000002#40 (unitOf 0x51BD9F7D#32 4#32 0xABD1D84E#32 0#4) =
    some (unitOf 0x51BD9F7D#32 4#32 0xABD1D84E#32 1#4, some ⟨0#32, false⟩) := by decide +kernel

/-! ## Notation and host procedures (R83 to R85, 42_chunk_protocol.md) -/

/-- R83: "WR DATA32, 0x49454E44 assembles to 0xCC49454E44". -/
theorem test_assemble_feed32 : (wrReg .data32 0x49454E44#32).assemble = 0xCC49454E44#40 := by decide

/-- V39: `WR.X @0x1D, 0x00000001`. -/
theorem test_assemble_raw : (AsmOp.wr .reserved (.raw 0x1D#5) 1#32).assemble = 0xFD00000001#40 := by decide

/-- R84, P5: 5 bytes are one DATA32 and one DATA8 write. -/
theorem test_feed_expansion : (feedOps [0x08#8, 0x06#8, 0x00#8, 0x00#8, 0x00#8]).map AsmOp.assemble =
    [0xCC08060000#40, 0xC800000000#40] := by decide

/-- P1, steps 1 to 5: CHUNKCHECK of the IEND chunk. -/
theorem test_chunkcheck_IEND :
    (PseudoOp.chunkCheck ⟨0x49#8, 0x45#8, 0x4E#8, 0x44#8⟩ [] 0xAE426082#32).expand.map AsmOp.assemble =
    [0xC000000001#40, 0xCC49454E44#40, 0xD0AE426082#40, 0xC000000002#40, 0x4400000000#40] := by decide

/-- R83: `RD RESULT -> 0xAE426082`. -/
theorem test_parse_rd_expected : parseLine "RD RESULT -> 0xAE426082".toList =
    .ok (some (.txn (.rd .word (.reg .result)) (some (.data 0xAE426082#32)))) := by rfl

/-- R129's example `WR.B DATA8, 0x41 -> ERR`, with a comment (R83). -/
theorem test_parse_wr_suffix : parseLine "WR.B DATA8, 0x41 -> ERR ; x".toList =
    .ok (some (.txn (.wr .byte (.reg .data8) 0x41#32) (some .err))) := by rfl

/-- R84: `FEEDSTR "RuSt"`. -/
theorem test_parse_feedstr : parseLine "FEEDSTR \"RuSt\"".toList = .ok (some (.pseudo (.feedStr "RuSt".toList))) := by rfl

/-- R84: bytes after commas; a bare number is decimal (R8). -/
theorem test_parse_feed_bytes : parseLine "FEED 0x52, 117, 0xfF".toList =
    .ok (some (.pseudo (.feed [0x52#8, 0x75#8, 0xFF#8]))) := by rfl

/-- R111, R125: `FEED "IEND"` (assumption 19). -/
theorem test_parse_feed_text : parseLine "FEED \"IEND\"".toList =
    .ok (some (.pseudo (.feed [0x49#8, 0x45#8, 0x4E#8, 0x44#8]))) := by rfl

/-- P5, the line above its steps: data bytes in a row. -/
theorem test_parse_chunkcheck_IHDR :
    parseLine "CHUNKCHECK \"IHDR\", 00 00 00 01 00 00 00 01 08 06 00 00 00, 0x1F15C489".toList =
    .ok (some (.pseudo (.chunkCheck ⟨0x49#8, 0x48#8, 0x44#8, 0x52#8⟩
      [0#8, 0#8, 0#8, 1#8, 0#8, 0#8, 0#8, 1#8, 8#8, 6#8, 0#8, 0#8, 0#8] 0x1F15C489#32))) := by rfl

/-- R85 with no data; the type given by its bytes. -/
theorem test_parse_chunkcheck_no_data : parseLine "CHUNKCHECK 49 45 4E 44, 0xAE426082".toList =
    .ok (some (.pseudo (.chunkCheck ⟨0x49#8, 0x45#8, 0x4E#8, 0x44#8⟩ [] 0xAE426082#32))) := by rfl

/-- No expected response after a pseudo-operation (assumption 20). -/
theorem test_parse_no_response_after_pseudo : parseLine "INIT -> 0".toList = .error .unknownOperation := by rfl

/-- R8: a value of more than 32 bits is none. -/
theorem test_parse_too_big : parseLine "EXPECT 0x100000000".toList = .error .badNumber := by rfl

/-- R140: the IEND record framed out of its bytes. -/
theorem test_frame_IEND : frameAt [0x00#8, 0x00#8, 0x00#8, 0x00#8, 0x49#8, 0x45#8, 0x4E#8, 0x44#8, 0xAE#8, 0x42#8, 0x60#8, 0x82#8] 0 =
    some ⟨0#32, ⟨0x49#8, 0x45#8, 0x4E#8, 0x44#8⟩, [], 0xAE426082#32⟩ := by rfl

/-- R153: the second chunk after one of length 42 starts at 8 + 54. -/
theorem test_chunk_offset : chunkOffset [42] = 62 := by decide

/-! ## Witnesses: a concrete input that meets the hypotheses of each statement that has some -/

/-- A state with one transaction waiting, the unit's fields from `unitOf`. -/
def waiting (t : Descriptor) (u : UnitState) : State := { State.reset with unit := u, pending := [.transaction t] }

/-- The unit after a matching CHECK of "IEND", with both sticky flags set (V1). -/
def busy : UnitState := unitOf 0x51BD9F7D#32 4#32 0xAE426082#32 15#4

theorem witness_NoAutonomousActivity : State.reset.pending = [] := rfl

theorem witness_StepExecutesTheDecodedTransaction : (Instr.ctrlIllegal 0xFFFFFFFF#32).wf = true := by decide

theorem witness_OnlyWindowAccessesReachTheUnit_above : Config.base + 0x1F < Config.base + 0x20 := by omega

theorem witness_LaterTransactionSeesEarlierEffects :
    ∃ t, exec (decode 0xCC49454E44#40) { State.reset with pending := [.transaction 0x5400000000#40] } = .next t :=
  ⟨_, rfl⟩

theorem witness_DecodeOfEncodeIsIdentity : (Instr.ctrlIllegal 3#32).wf = true := by decide

theorem witness_EncodeOfDecodeClearsOnlyIgnoredBits :
    (decode 0xCC49454E44#40).isRead = false ∧ ∀ b, decode 0xCC49454E44#40 ≠ .feed8 b :=
  ⟨by decide, fun b => by rw [show decode 0xCC49454E44#40 = .feed32 0x49454E44#32 by decide]; simp⟩

theorem witness_InitStartsAFreshComputation_reset : State.reset.unit = UnitState.reset := rfl

theorem witness_InitStartsAFreshComputation_clears : ∃ t,
    exec .init { State.reset with unit := busy } = .next t ∧
      busy.cmdErr = true ∧ t.unit.cmdErr = false ∧ busy.cntOvf = true ∧ t.unit.cntOvf = false :=
  ⟨_, rfl, rfl, rfl, rfl, rfl⟩

theorem witness_CheckComparesResultWithExpect_empty : ∃ t,
    State.reset.unit.expect = 0#32 ∧ exec .init State.reset = .next t := ⟨_, rfl, rfl⟩

theorem witness_CheckComparesResultWithExpect_match : ∃ t,
    (unitOf 0x51BD9F7D#32 4#32 0xAE426082#32 0#4).regS = 0x51BD9F7D#32 ∧
    exec .check { State.reset with unit := unitOf 0x51BD9F7D#32 4#32 0xAE426082#32 0#4 } = .next t := ⟨_, rfl, rfl⟩

theorem witness_CheckComparesResultWithExpect_mismatch : ∃ t,
    (unitOf 0x51BD9F7D#32 4#32 0xAE426083#32 0#4).expect = 0xAE426083#32 ∧
    exec .check { State.reset with unit := unitOf 0x51BD9F7D#32 4#32 0xAE426083#32 0#4 } = .next t := ⟨_, rfl, rfl⟩

theorem witness_CheckComparesResultWithExpect_between :
    Instr.rdStatus.isFeed = false ∧ (∀ w, Instr.rdStatus ≠ .wrExpect w) ∧ Instr.rdStatus ≠ .init :=
  ⟨rfl, fun _ => by simp, by decide⟩

theorem witness_WrongSizeIsABusError : ∃ t,
    Instr.buserrSizeByte true 0x08#5 0x41#32 = decode 0x8800000041#40 ∧
    exec (.buserrSizeByte true 0x08#5 0x41#32) State.reset = .next t ∧ t.unit = State.reset.unit :=
  ⟨_, by decide, rfl, rfl⟩

theorem witness_MisalignedAccessIsABusError : ∃ t,
    Instr.buserrAlign3 true 7#3 0#32 = decode 0xDF00000000#40 ∧
    exec (.buserrAlign3 true 7#3 0#32) State.reset = .next t ∧ t.unit = State.reset.unit :=
  ⟨_, by decide, rfl, rfl⟩

theorem witness_Feed32FeedsFourBytesMostSignificantFirst : ∃ t1 t2 t3,
    exec (.feed8 0x49#8) State.reset = .next t1 ∧ exec (.feed8 0x45#8) t1 = .next t2 ∧
    exec (.feed8 0x4E#8) t2 = .next t3 := ⟨_, _, _, rfl, rfl, rfl⟩

theorem witness_ReadsAreIdempotentAndFeedsAreNot_read : Instr.rdResult.isRead = true := rfl

theorem witness_ReadsAreIdempotentAndFeedsAreNot_feed : ∃ t, exec (.feed8 0#8) State.reset = .next t := ⟨_, rfl⟩

theorem witness_ReadsAreIdempotentAndFeedsAreNot_feed32 : ∃ t, exec (.feed32 0x49454E44#32) State.reset = .next t :=
  ⟨_, rfl⟩

theorem witness_ReadsAreIdempotentAndFeedsAreNot_expect : ∃ t,
    exec (.wrExpect 0xAE426082#32) { State.reset with unit := busy } = .next t := ⟨_, rfl⟩

theorem witness_ReadsAreIdempotentAndFeedsAreNot_ignored : ∃ t, exec (.wrCount 7#32) State.reset = .next t := ⟨_, rfl⟩

theorem witness_TheFourReadsDetermineTheUnit :
    busy.read .status = busy.read .status ∧ busy.read .expect = busy.read .expect ∧
    busy.read .result = busy.read .result ∧ busy.read .count = busy.read .count := ⟨rfl, rfl, rfl, rfl⟩

theorem witness_ErrExactlyForIllegalAccesses : ∃ t,
    exec (decode 0xFD00000001#40) State.reset = .next t ∧ t.response = some ⟨0#32, true⟩ := ⟨_, rfl, rfl⟩

theorem witness_ConditionsAreReportedWhereTheyArise_cmdErr :
    conditionOf (.ctrlIllegal 3#32) UnitState.reset = some .cmdErr ∧ UnitState.reset.cmdErr = false := ⟨rfl, rfl⟩

theorem witness_ConditionsAreReportedWhereTheyArise_feed8 :
    conditionOf (.feed8 0#8) (unitOf 0#32 0xFFFFFFFF#32 0#32 0#4) = some .cntOvf := by decide

theorem witness_ConditionsAreReportedWhereTheyArise_feed32 :
    conditionOf (.feed32 0#32) (unitOf 0#32 0xFFFFFFFC#32 0#32 0#4) = some .cntOvf ∧
    conditionOf (.feed32 0#32) (unitOf 0#32 0xFFFFFFFB#32 0#32 0#4) = none := by decide

theorem witness_ConditionsAreReportedWhereTheyArise_mismatch :
    conditionOf .check (unitOf 0x51BD9F7D#32 4#32 0xAE426083#32 0#4) = some .mismatch := by decide

theorem witness_OnlyFeedsInitAndResetChangeS : ∃ t,
    step (waiting 0xC800000000#40 UnitState.reset) = .next t ∧ t.unit.regS ≠ UnitState.reset.regS :=
  ⟨_, rfl, by decide +kernel⟩

theorem witness_CountCountsTheBytesFed : ∃ t,
    step (waiting 0xCC00000000#40 (unitOf 0#32 0xFFFFFFFD#32 0#32 0#4)) = .next t ∧ t.unit.count = 1#32 ∧
    t.unit.count ≠ 0xFFFFFFFD#32 := ⟨_, rfl, by decide, by decide⟩

theorem witness_CountCountsTheBytesFed_init : ∃ t,
    step (waiting 0xC000000001#40 busy) = .next t ∧ t.unit.count ≠ busy.count := ⟨_, rfl, by decide⟩

theorem witness_CountCountsTheBytesFed_feeds :
    (waiting 0xC800000041#40 busy).nextIs (.feed8 0x41#8) ∧ (waiting 0xCC49454E44#40 busy).nextIs (.feed32 0x49454E44#32) ∧
    (waiting 0xC000000001#40 busy).nextIs .init :=
  ⟨⟨_, _, _, rfl, rfl, by decide⟩, ⟨_, _, _, rfl, rfl, by decide⟩, ⟨_, _, _, rfl, rfl, by decide⟩⟩

theorem witness_CountCountsTheBytesFed_reset : State.nextIsReset { State.reset with unit := busy, pending := [.reset] } :=
  ⟨_, _, rfl, rfl⟩

theorem witness_OnlyExpectWritesAndResetChangeExpect : ∃ t,
    step (waiting 0xD0FFFFFFFF#40 UnitState.reset) = .next t ∧ t.unit.expect ≠ UnitState.reset.expect :=
  ⟨_, rfl, by decide⟩

theorem witness_OnlyExpectWritesAndResetChangeExpect_reset : ∃ t,
    step { State.reset with unit := busy, pending := [.reset] } = .next t ∧ t.unit.expect ≠ busy.expect :=
  ⟨_, rfl, by decide⟩

theorem witness_StatusFlagsChangeAsTheTableSays_set : ∃ t,
    step (waiting 0xC000000002#40 UnitState.reset) = .next t ∧ t.unit.done = true ∧ t.unit.matched = true :=
  ⟨_, rfl, rfl, by decide⟩

theorem witness_StatusFlagsChangeAsTheTableSays_clear : ∃ t,
    step (waiting 0xC800000000#40 busy) = .next t ∧ t.unit.done = false ∧ t.unit.matched = false := ⟨_, rfl, rfl, rfl⟩

theorem witness_StatusFlagsChangeAsTheTableSays_sticky : ∃ t t',
    step (waiting 0xC000000003#40 UnitState.reset) = .next t ∧ t.unit.cmdErr = true ∧
    step (waiting 0xC800000000#40 (unitOf 0#32 0xFFFFFFFF#32 0#32 0#4)) = .next t' ∧ t'.unit.cntOvf = true :=
  ⟨_, _, rfl, rfl, rfl, by decide⟩

theorem witness_StatusFlagsChangeAsTheTableSays_sticky_clear : ∃ t,
    step (waiting 0xC000000001#40 busy) = .next t ∧ t.unit.cmdErr = false ∧ t.unit.cntOvf = false := ⟨_, rfl, rfl, rfl⟩

theorem witness_StickyFlagsStayAndDoNotInterfere : ∃ t,
    step (waiting 0xC000000001#40 busy) = .next t ∧ busy.cmdErr = true ∧ t.unit.cmdErr = false ∧
    busy.cntOvf = true ∧ t.unit.cntOvf = false := ⟨_, rfl, rfl, rfl, rfl, rfl⟩

theorem witness_EveryStepKeepsTheInvariant : ∃ t,
    (waiting 0x4600000000#40 busy).Inv ∧ step (waiting 0x4600000000#40 busy) = .next t :=
  ⟨_, ⟨rfl, fun r h => by simp [waiting, State.reset] at h⟩, rfl⟩

theorem witness_ReachableStatesHaveMatchOnlyWithDone : ∃ t,
    run 1 (State.reset.submit [.transaction 0xC000000002#40]) = .next t ∧ t.unit.matched = true :=
  ⟨_, rfl, by decide⟩

theorem witness_StatusReadsExactlyTheReachableValues : ∃ t t',
    run 2 (State.reset.submit [.transaction 0xC000000003#40, .transaction 0xC000000002#40]) = .next t ∧
    exec .rdStatus t = .next t' ∧ t'.answered 0x7#32 := ⟨_, _, rfl, rfl, by unfold State.answered; decide⟩

theorem witness_CrcIsAffine : ([0x52#8, 0x75#8] : List Byte).length = ([0x49#8, 0x45#8] : List Byte).length := rfl

theorem witness_FlippingAnyBitChangesTheCrc : 0 < ([0x52#8] : List Byte).length ∧ 7 < 8 := ⟨by decide, by decide⟩

theorem witness_AnyGroupingFeedsTheSameStream :
    [Feed.word 0x52755374#32, Feed.byte 0x65#8].flatMap Feed.bytes = [0x52#8, 0x75#8, 0x53#8, 0x74#8, 0x65#8] := by decide

theorem witness_StreamAfterInitOrReset : HostEvent.transaction (encode .init) = .transaction 0xC000000001#40 := by decide

theorem witness_ValidationDecidesTheChunkCrc :
    4 + ([] : List Byte).length < 2 ^ 32 ∧ 0xAE426082#32 = crc (crcInput ⟨0x49#8, 0x45#8, 0x4E#8, 0x44#8⟩ []) := by
  decide +kernel

theorem witness_CountAfterTheFeedsIsTheInputLength :
    generateOps ⟨0x49#8, 0x45#8, 0x4E#8, 0x44#8⟩ [] =
      [wrReg .ctrl 1#32, wrReg .data32 0x49454E44#32, rdReg .result] := by decide

theorem witness_GeneratedCrcValidates : 4 + ([0x00#8] : List Byte).length < 2 ^ 32 := by decide

end Sys2Proof.Tests
end

section
/-! Proofs for 00_scope.md: which instructions the decoder answers, how it undoes the encoder, and what a step does
with a transaction and with a bus access. -/

namespace Sys2Proof

/-! ## The decoder answers well-formed instructions (R79) -/

/-- A CTRL word is illegal when it is none of the three that R75 names. -/
theorem wf_ctrlIllegal_iff (w : Word) :
    (Instr.ctrlIllegal w).wf = true ↔ w ≠ 0#32 ∧ w ≠ 1#32 ∧ w ≠ 2#32 := by
  simp [Instr.wf, isCommandWord, and_assoc]

@[simp] theorem decodeCommand_wf (w : Word) : (decodeCommand w).wf = true := by
  obtain ⟨-, h⟩ | ⟨-, h⟩ | ⟨-, h⟩ | ⟨h0, h1, h2, h⟩ := decodeCommand_cases w
  · rw [h]; rfl
  · rw [h]; rfl
  · rw [h]; rfl
  · rw [h]; exact (wf_ctrlIllegal_iff w).mpr ⟨h0, h1, h2⟩

@[simp] theorem decodeRead_wf (r : Reg) : (decodeRead r).wf = true := by cases r <;> rfl

@[simp] theorem decodeWrite_wf (w : Word) (r : Reg) : (decodeWrite w r).wf = true := by
  cases r
  case ctrl => exact decodeCommand_wf w
  all_goals rfl

/-- The register's read or write is well-formed; every other answer is a bus error, which takes any operand. -/
@[simp] theorem decode_wf (d : Descriptor) : (decode d).wf = true := by
  obtain ⟨-, h⟩ | ⟨-, h⟩ | ⟨-, h⟩ | ⟨-, ⟨-, h⟩ | ⟨-, h⟩ | ⟨-, h⟩ | ⟨-, h⟩ | ⟨r, -, hr⟩⟩ := decode_cases d
  rotate_right
  · obtain ⟨-, h⟩ | ⟨-, h⟩ := hr
    · rw [h, decodeRead_wf]
    · rw [h, decodeWrite_wf]
  all_goals rw [h]; rfl

/-! ## The decoder undoes the encoder (R70, R79) -/

/-- An illegal command word is decoded as itself (R75, R113). -/
theorem decodeCommand_of_illegal {w : Word} (h : (Instr.ctrlIllegal w).wf = true) :
    decodeCommand w = .ctrlIllegal w := by
  obtain ⟨h0, h1, h2⟩ := (wf_ctrlIllegal_iff w).mp h
  rw [decodeCommand, if_neg h0, if_neg h1, if_neg h2]

/-- FEED8 keeps its byte: the word holds it in bits 7:0 (R76). -/
theorem decodeWrite_data8_setWidth (b : Byte) : decodeWrite (b.setWidth 32) .data8 = .feed8 b := by
  have h : (b.setWidth 32).extractLsb' 0 8 = b :=
    (BitVec.extractLsb'_setWidth_of_le (by decide)).trans BitVec.extractLsb'_eq_self
  exact congrArg Instr.feed8 h

/-- No operand is lost on the way through a descriptor. -/
theorem decode_encode {i : Instr} (h : i.wf = true) : decode (encode i) = i := by
  cases i
  case buserrSizeByte | buserrSizeHalf | buserrSizeReserved | buserrAlign1 | buserrAlign2 | buserrAlign3 =>
    simp [encode, decodeFields]
  case buserrUnmapped we w => exact decode_mkDescriptor we 0b10#2 0x1C#5 w
  case rdCtrl | rdStatus | rdData8 | rdData32 | rdExpect | rdResult | rdCount => exact decode_encodeRead _
  case ctrlIllegal w => exact (decode_encodeWrite .ctrl w).trans (decodeCommand_of_illegal h)
  case feed8 b => exact (decode_encodeWrite .data8 _).trans (decodeWrite_data8_setWidth b)
  all_goals exact decode_encodeWrite _ _

end Sys2Proof

namespace Sys2Proof.Machine

/-! ## The window (R6, R51) -/

/-- BASE is a multiple of the window's size (R6). -/
theorem base_mod_windowSize : Config.base % windowSize = 0 := Nat.mul_mod_right ..

/-- The window has an address for each byte offset. -/
@[simp] theorem windowOffset_base_add (off : Offset) : windowOffset (Config.base + off.toNat) = some off := by
  have hin : Config.base ≤ Config.base + off.toNat ∧ Config.base + off.toNat < Config.base + windowSize :=
    ⟨Nat.le_add_right .., Nat.add_lt_add_left off.isLt _⟩
  rw [windowOffset, if_pos hin, Nat.add_sub_cancel_left, BitVec.ofNat_toNat, BitVec.setWidth_eq]

theorem windowOffset_eq_none_iff (address : Nat) :
    windowOffset address = none ↔ address < Config.base ∨ Config.base + 0x1F < address := by
  rw [windowOffset, ite_eq_right_iff]
  simp only [reduceCtorEq, imp_false, windowSize]
  omega

/-! ## What a step does with the oldest event (R11, R51) -/

section Step
variable (s : State) (rest : List HostEvent) (we : Bool) (size : Size) (wdata : Word)

theorem deliver_access_of_some {address : Nat} {off : Offset} (h : windowOffset address = some off) :
    (HostEvent.access we size address wdata).deliver = .transaction (mkDescriptor we size off wdata) := by
  simp [HostEvent.deliver, h]

theorem deliver_access_of_none {address : Nat} (h : windowOffset address = none) :
    (HostEvent.access we size address wdata).deliver = .notForUnit := by
  simp [HostEvent.deliver, h]

/-- An event that brings a transaction is executed as that transaction (R11). -/
theorem step_of_deliver_transaction {e : HostEvent} {d : Descriptor} (h : e.deliver = .transaction d) :
    step { s with pending := e :: rest } = exec (decode d) { s with pending := rest } := by
  rw [step_cons, h]

/-- An event that is not for the unit is only taken off the waiting ones (R51; assumption 8). -/
theorem step_of_deliver_notForUnit {e : HostEvent} (h : e.deliver = .notForUnit) :
    step { s with pending := e :: rest } = .next { s with pending := rest } := by
  rw [step_cons, h]

end Step

end Sys2Proof.Machine

open Sys2Proof Sys2Proof.Machine

/-! ## The statements -/

/-- Settles O5: an offset's address lies in the window and is delivered as its transaction; an address below BASE or
past BASE + 0x1F has no offset, and is delivered as nothing for the unit. -/
theorem onlyWindowAccessesReachTheUnit : Obligations.OnlyWindowAccessesReachTheUnit := by
  refine ⟨base_mod_windowSize, fun s rest we size wdata => ⟨fun off => ?_, fun address hout => ?_⟩⟩
  · exact step_of_deliver_transaction s rest
      (deliver_access_of_some we size wdata (windowOffset_base_add off))
  · exact step_of_deliver_notForUnit s rest
      (deliver_access_of_none we size wdata ((windowOffset_eq_none_iff address).mpr hout))

/-- Settles O4: the step executes what its descriptor decodes to, which is well-formed; and the descriptor of a
well-formed instruction decodes to the instruction. -/
theorem stepExecutesTheDecodedTransaction : Obligations.StepExecutesTheDecodedTransaction := by
  refine fun s rest => ⟨fun d => ⟨decode_wf d, step_of_deliver_transaction s rest rfl⟩, fun i hwf => ?_⟩
  calc step { s with pending := .transaction (encode i) :: rest }
      = exec (decode (encode i)) { s with pending := rest } := step_of_deliver_transaction s rest rfl
    _ = exec i { s with pending := rest } := by rw [decode_encode hwf]
end

section
/-! Proofs for 10_state.md: what one transaction and one step do to the unit, said once; which of them change each
register and each STATUS flag; the invariant of reachable states; and streams of feeds. -/

namespace Sys2Proof.Machine

/-- Two states of the unit are alike in everything but the sticky flags CMDERR and CNTOVF (R27). -/
structure UnitState.SameButSticky (u v : UnitState) : Prop where
  regS : u.regS = v.regS
  count : u.count = v.count
  expect : u.expect = v.expect
  done : u.done = v.done
  matched : u.matched = v.matched

/-! ## What a transaction does (R24, R71) -/

/-- The unit's state after a transaction: six rows of the opcode table write the unit, every other leaves it. -/
def UnitState.transact (u : UnitState) : Instr → UnitState
  | .init => u.initialise
  | .check => u.checkResult
  | .ctrlIllegal _ => u.flagIllegalCommand
  | .feed8 b => (u.feed b).clearCheck
  | .feed32 w => (u.feedAll (beBytes w)).clearCheck
  | .wrExpect w => u.writeExpect w
  | _ => u

/-- The unit's response to a transaction: a bus error, a register's value, or the acknowledgement of a write. -/
def UnitState.answer (u : UnitState) (i : Instr) : Response :=
  if i.isBusError then ⟨0#32, true⟩ else ⟨((readRegOf i).map u.read).getD 0#32, false⟩

/-- The faults of the host's run that a transaction records (assumption 5). -/
def UnitState.faultsOf (u : UnitState) (i : Instr) : List Fault :=
  ((conditionOf i u).bind Condition.fault).toList

/-- The machine's state after a transaction; `exec_eq_transact` ties it to the model. -/
def State.transact (s : State) (i : Instr) : State :=
  s.after (s.unit.transact i) (s.unit.answer i) (s.unit.faultsOf i)

section Transact
variable (s : State) (u : UnitState) (i : Instr)

@[simp] theorem State.transact_unit : (s.transact i).unit = s.unit.transact i := rfl
@[simp] theorem State.transact_response : (s.transact i).response = some (s.unit.answer i) := rfl
@[simp] theorem State.transact_pending : (s.transact i).pending = s.pending := rfl
@[simp] theorem State.transact_faults : (s.transact i).faults = s.faults ++ s.unit.faultsOf i := rfl

theorem State.ackWrite_eq_after : s.ackWrite u = s.after u ⟨0#32, false⟩ [] := by
  simp [State.ackWrite, State.respond, State.after]

theorem State.ackRead_eq_after (r : Reg) : s.ackRead r = s.after s.unit ⟨s.unit.read r, false⟩ [] := by
  simp [State.ackRead, State.respond, State.after]

/-- A wrapped COUNT is a report, not a fault (R163). -/
@[simp] theorem UnitState.faultsOf_feed (f : Feed) : u.faultsOf f.instr = [] := by
  cases f <;> (simp only [faultsOf, Feed.instr, conditionOf]; split <;> rfl)

/-- A mismatch is a result, not a fault (R164). -/
@[simp] theorem UnitState.faultsOf_check : u.faultsOf .check = [] := by
  simp only [faultsOf, conditionOf]; split <;> rfl

/-- A feeding transaction feeds its bytes and ends the standing of the last CHECK (R114, R115). -/
@[simp] theorem UnitState.transact_feed (f : Feed) : u.transact f.instr = (u.feedAll f.bytes).clearCheck := by
  cases f <;> rfl

@[simp] theorem UnitState.answer_feed (f : Feed) : u.answer f.instr = ⟨0#32, false⟩ := by cases f <;> rfl

@[simp] theorem Feed.isFeed_instr (f : Feed) : f.instr.isFeed = true := by cases f <;> rfl

@[simp] theorem Feed.wf_instr (f : Feed) : f.instr.wf = true := by cases f <;> rfl

/-- Every transaction has exactly one outcome, and it is a next state (R168). -/
theorem exec_eq_transact : exec i s = .next (s.transact i) := by
  have feed (f : Feed) : Host.Outcome.next (s.ackWrite (s.unit.feedAll f.bytes).clearCheck) =
      (Host.Outcome.next (s.transact f.instr) : Host.Outcome State Fault Refusal) := by
    rw [State.transact, UnitState.transact_feed, UnitState.answer_feed, UnitState.faultsOf_feed,
      State.ackWrite_eq_after]
  cases i
  case ctrlIllegal | buserrSizeByte | buserrSizeHalf | buserrSizeReserved | buserrAlign1 | buserrAlign2
      | buserrAlign3 | buserrUnmapped => rfl
  case rdCtrl | rdStatus | rdData8 | rdData32 | rdExpect | rdResult | rdCount =>
    exact congrArg Host.Outcome.next (s.ackRead_eq_after _)
  case feed8 b => exact feed (.byte b)
  case feed32 w => exact feed (.word w)
  case check =>
    rw [State.transact, UnitState.faultsOf_check]
    exact congrArg Host.Outcome.next (s.ackWrite_eq_after _)
  all_goals exact congrArg Host.Outcome.next (s.ackWrite_eq_after _)

/-- Which transactions write the unit, and what they write. -/
theorem UnitState.transact_cases :
    u.transact i = u ∨
    (i = .init ∧ u.transact i = u.initialise) ∨
    (i = .check ∧ u.transact i = u.checkResult) ∨
    (∃ w, i = .ctrlIllegal w ∧ u.transact i = u.flagIllegalCommand) ∨
    (∃ f : Feed, i = f.instr ∧ u.transact i = (u.feedAll f.bytes).clearCheck) ∨
    (∃ w, i = .wrExpect w ∧ u.transact i = u.writeExpect w) := by
  cases i
  case init => exact .inr (.inl ⟨rfl, rfl⟩)
  case check => exact .inr (.inr (.inl ⟨rfl, rfl⟩))
  case ctrlIllegal w => exact .inr (.inr (.inr (.inl ⟨w, rfl, rfl⟩)))
  case feed8 b => exact .inr (.inr (.inr (.inr (.inl ⟨.byte b, rfl, rfl⟩))))
  case feed32 w => exact .inr (.inr (.inr (.inr (.inl ⟨.word w, rfl, rfl⟩))))
  case wrExpect w => exact .inr (.inr (.inr (.inr (.inr ⟨w, rfl, rfl⟩))))
  all_goals exact .inl rfl

end Transact

/-! ## What a step does (R11) -/

/-- A step that executes a transaction has the transaction's effect. -/
theorem step_of_nextIs {s t : State} {i : Instr} (hi : s.nextIs i) (h : step s = .next t) :
    t = ({ s with pending := s.pending.tail } : State).transact i := by
  obtain ⟨e, rest, d, hp, hd, rfl⟩ := hi
  have hs : s = { s with pending := e :: rest } := by rw [← hp]
  rw [hs, step_of_deliver_transaction s rest hd, exec_eq_transact] at h
  injection h with h
  rw [← h, hp]; rfl

/-- A step that applies the reset input sets the unit to its reset values (R180). -/
theorem step_of_nextIsReset {s t : State} (hr : s.nextIsReset) (h : step s = .next t) :
    t.unit = UnitState.reset ∧ t.response = s.response := by
  obtain ⟨e, rest, hp, hd⟩ := hr
  have hs : s = { s with pending := e :: rest } := by rw [← hp]
  rw [hs, step_cons, hd] at h
  injection h with h
  rw [← h]; exact ⟨rfl, rfl⟩

/-- A step leaves the unit and the last response, or applies the reset input, or executes a transaction. -/
theorem step_effect {s t : State} (h : step s = .next t) :
    (t.unit = s.unit ∧ t.response = s.response) ∨
    (s.nextIsReset ∧ t.unit = UnitState.reset ∧ t.response = s.response) ∨
    (∃ i, s.nextIs i ∧ t.unit = s.unit.transact i ∧ t.response = some (s.unit.answer i)) := by
  obtain ⟨-, rfl⟩ | ⟨e, rest, hp, ⟨hd, -⟩ | ⟨-, rfl⟩ | ⟨d, hd, -⟩⟩ := step_cases h
  · exact .inl ⟨rfl, rfl⟩
  · have hr : s.nextIsReset := ⟨e, rest, hp, hd⟩
    exact .inr (.inl ⟨hr, step_of_nextIsReset hr h⟩)
  · exact .inl ⟨rfl, rfl⟩
  · have hi : s.nextIs (decode d) := ⟨e, rest, d, hp, hd, rfl⟩
    have ht := step_of_nextIs hi h
    exact .inr (.inr ⟨decode d, hi, by rw [ht]; rfl, by rw [ht]; rfl⟩)

/-- What a step did to the unit, by its cause: the causes are those of R21 to R24. -/
theorem step_unit_cases {s t : State} (h : step s = .next t) :
    t.unit = s.unit ∨
    (s.nextIsReset ∧ t.unit = UnitState.reset) ∨
    (s.nextIs .init ∧ t.unit = s.unit.initialise) ∨
    (s.nextIs .check ∧ t.unit = s.unit.checkResult) ∨
    (∃ w, s.nextIs (.ctrlIllegal w) ∧ t.unit = s.unit.flagIllegalCommand) ∨
    (∃ f : Feed, s.nextIs f.instr ∧ t.unit = (s.unit.feedAll f.bytes).clearCheck) ∨
    (∃ w, s.nextIs (.wrExpect w) ∧ t.unit = s.unit.writeExpect w) := by
  obtain ⟨hu, -⟩ | ⟨hr, hu, -⟩ | ⟨i, hi, hu, -⟩ := step_effect h
  · exact .inl hu
  · exact .inr (.inl ⟨hr, hu⟩)
  · rw [hu]
    refine (s.unit.transact_cases i).imp_right fun hcase => .inr ?_
    obtain ⟨rfl, hu⟩ | ⟨rfl, hu⟩ | ⟨w, rfl, hu⟩ | ⟨f, rfl, hu⟩ | ⟨w, rfl, hu⟩ := hcase
    · exact .inl ⟨hi, hu⟩
    · exact .inr (.inl ⟨hi, hu⟩)
    · exact .inr (.inr (.inl ⟨w, hi, hu⟩))
    · exact .inr (.inr (.inr (.inl ⟨f, hi, hu⟩)))
    · exact .inr (.inr (.inr (.inr ⟨w, hi, hu⟩)))

/-- S and COUNT are the stream's own: a step leaves both, or has one of three causes (R21, R22). -/
theorem step_keeps_stream_or {s t : State} (h : step s = .next t) :
    (t.unit.regS = s.unit.regS ∧ t.unit.count = s.unit.count) ∨
    s.nextIsReset ∨ s.nextIs .init ∨ ∃ f : Feed, s.nextIs f.instr := by
  obtain hu | ⟨hr, -⟩ | ⟨hi, -⟩ | ⟨-, hu⟩ | ⟨w, -, hu⟩ | ⟨f, hf, -⟩ | ⟨w, -, hu⟩ := step_unit_cases h
  · exact .inl (by simp [hu])
  · exact .inr (.inl hr)
  · exact .inr (.inr (.inl hi))
  · exact .inl (by simp [hu])
  · exact .inl (by simp [hu])
  · exact .inr (.inr (.inr ⟨f, hf⟩))
  · exact .inl (by simp [hu])

/-! ## The invariant (R25, R71) -/

theorem UnitState.wf_iff (u : UnitState) : u.wf = true ↔ (u.matched = true → u.done = true) := by
  cases hm : u.matched <;> simp [wf, hm]

/-- A response is well-formed whatever the state: only a register's value is not 0, and it has no error (R71). -/
theorem UnitState.answer_wf (u : UnitState) (i : Instr) : (u.answer i).wf = true := by
  unfold answer; split <;> simp [Response.wf]

/-- CHECK sets DONE with MATCH; INIT, the feeds and an EXPECT write clear both; nothing else writes them. -/
theorem UnitState.transact_wf {u : UnitState} (h : u.wf = true) (i : Instr) : (u.transact i).wf = true := by
  obtain hu | ⟨-, hu⟩ | ⟨-, hu⟩ | ⟨w, -, hu⟩ | ⟨f, -, hu⟩ | ⟨w, -, hu⟩ := u.transact_cases i
  · rw [hu]; exact h
  · rw [hu]; rfl
  · rw [hu]; simp [wf_iff]
  · rw [hu]; exact h
  · rw [hu]; rfl
  · rw [hu]; rfl

theorem reset_inv : State.reset.Inv := ⟨rfl, fun _ h => nomatch h⟩

theorem step_inv {s t : State} (hs : s.Inv) (h : step s = .next t) : t.Inv := by
  obtain ⟨hwf, hresp⟩ := hs
  obtain ⟨hu, hr⟩ | ⟨-, hu, hr⟩ | ⟨i, -, hu, hr⟩ := step_effect h
  · exact ⟨hu ▸ hwf, hr ▸ hresp⟩
  · exact ⟨hu ▸ rfl, hr ▸ hresp⟩
  · refine ⟨hu ▸ UnitState.transact_wf hwf i, fun r hsome => ?_⟩
    obtain rfl : s.unit.answer i = r := Option.some.inj (hr ▸ hsome)
    exact s.unit.answer_wf i

/-- What every step keeps, every run keeps. -/
theorem run_induction {P : State → Prop} (hstep : ∀ s t, P s → step s = .next t → P t) {n : Nat} {s t : State}
    (hs : P s) (h : run n s = .next t) : P t := by
  induction n generalizing s with
  | zero => injection h with h; exact h ▸ hs
  | succ n ih =>
    unfold run at h
    split at h
    · next s1 h1 => exact ih (hstep s s1 hs h1) h
    · cases h
    · cases h

/-- Every state that the host's events lead to from reset meets the invariant (R25). -/
theorem reachable_inv {es : List HostEvent} {n : Nat} {t : State} (h : run n (State.reset.submit es) = .next t) :
    t.Inv :=
  run_induction (s := State.reset.submit es) (fun _ _ => step_inv) reset_inv h

/-! ## The STATUS word and RESULT (R24, R33) -/

@[simp] theorem UnitState.read_status (u : UnitState) : u.read .status = u.status := rfl
@[simp] theorem UnitState.read_result (u : UnitState) : u.read .result = u.regS ^^^ crcFinalXor := rfl
@[simp] theorem UnitState.read_expect (u : UnitState) : u.read .expect = u.expect := rfl
@[simp] theorem UnitState.read_count (u : UnitState) : u.read .count = u.count := rfl

/-- CHECK compares what the host reads as RESULT with what it reads as EXPECT (R111). -/
theorem UnitState.compare_eq_true_iff (u : UnitState) : u.compare = true ↔ u.read .result = u.read .expect :=
  beq_iff_eq

theorem UnitState.compare_eq_false_iff (u : UnitState) : u.compare = false ↔ u.read .result ≠ u.read .expect :=
  beq_eq_false_iff_ne

/-- STATUS[31:4] has no storage and reads 0 (R24). -/
theorem UnitState.status_high (u : UnitState) : u.status.extractLsb' 4 28 = 0#28 := by
  unfold status
  cases u.cntOvf <;> cases u.cmdErr <;> cases u.matched <;> cases u.done <;> rfl

/-- The twelve values that R123 lists. -/
def statusValues : List Word :=
  [0x0#32, 0x1#32, 0x3#32, 0x4#32, 0x5#32, 0x7#32, 0x8#32, 0x9#32, 0xB#32, 0xC#32, 0xD#32, 0xF#32]

/-- They are the STATUS words in which MATCH implies DONE. -/
theorem UnitState.wf_iff_status_mem (u : UnitState) : u.wf = true ↔ u.status ∈ statusValues := by
  unfold wf status
  cases u.cntOvf <;> cases u.cmdErr <;> cases u.matched <;> cases u.done <;> decide

/-- The four flags can be read off the STATUS word. -/
theorem UnitState.flags_eq_of_status_eq {u v : UnitState} (h : u.status = v.status) :
    u.done = v.done ∧ u.matched = v.matched ∧ u.cmdErr = v.cmdErr ∧ u.cntOvf = v.cntOvf := by
  refine ⟨?_, ?_, ?_, ?_⟩
  · rw [← u.status_bit0, ← v.status_bit0, h]
  · rw [← u.status_bit1, ← v.status_bit1, h]
  · rw [← u.status_bit2, ← v.status_bit2, h]
  · rw [← u.status_bit3, ← v.status_bit3, h]

/-- A wrap leaves COUNT less than before, when fewer bytes are fed than COUNT has values (R22). -/
theorem UnitState.feedAll_count_lt {u : UnitState} {m : List Byte} (hlen : m.length < 2 ^ 32)
    (hwrap : 2 ^ 32 ≤ u.count.toNat + m.length) : (u.feedAll m).count < u.count := by
  have hlt := u.count.isLt
  rw [feedAll_count, BitVec.lt_def, BitVec.toNat_add, BitVec.toNat_ofNat]
  omega

theorem Feed.bytes_length_lt (f : Feed) : f.bytes.length < 2 ^ 32 := by cases f <;> simp [Feed.bytes]

/-- One feeding transaction sets CNTOVF only when it leaves COUNT less than before (R22, R24). -/
theorem UnitState.count_lt_of_feed_sets_cntOvf {u : UnitState} {f : Feed}
    (h : (u.feedAll f.bytes).cntOvf = true) : u.cntOvf = true ∨ (u.feedAll f.bytes).count < u.count := by
  rw [feedAll_cntOvf, Bool.or_eq_true, decide_eq_true_eq] at h
  exact h.imp_right (feedAll_count_lt f.bytes_length_lt)

/-! ## The sticky flags do not interfere (R27) -/

/-- No transaction lets CMDERR or CNTOVF into another register or flag. -/
theorem UnitState.SameButSticky.transact {u v : UnitState} (h : u.SameButSticky v) (i : Instr) :
    (u.transact i).SameButSticky (v.transact i) := by
  obtain ⟨S, count, expect, done, matched, c, o⟩ := u
  obtain ⟨S', count', expect', done', matched', c', o'⟩ := v
  obtain rfl : S = S' := h.regS
  obtain rfl : count = count' := h.count
  obtain rfl : expect = expect' := h.expect
  obtain rfl : done = done' := h.done
  obtain rfl : matched = matched' := h.matched
  cases i
  case feed32 w => constructor <;> simp [UnitState.transact, feedAll_count]
  all_goals exact ⟨rfl, rfl, rfl, rfl, rfl⟩

/-- Only a read of STATUS answers with CMDERR or CNTOVF. -/
theorem UnitState.SameButSticky.answer {u v : UnitState} (h : u.SameButSticky v) {i : Instr} (hi : i ≠ .rdStatus) :
    u.answer i = v.answer i := by
  obtain ⟨hS, hcount, hexpect, -, -⟩ := h
  cases i
  case rdStatus => exact absurd rfl hi
  case rdExpect | rdResult | rdCount => simp [UnitState.answer, Instr.isBusError, readRegOf, hS, hcount, hexpect]
  all_goals rfl

/-! ## Runs of transactions (R60, R96) -/

/-- Instructions as the host's events. -/
def instrEvents (is : List Instr) : List HostEvent := is.map fun i => .transaction (encode i)

theorem feedEvents_eq (fs : List Feed) : feedEvents fs = instrEvents (fs.map Feed.instr) := by
  simp [feedEvents, instrEvents]

/-- Waiting transactions take effect one after the other, in their order. -/
theorem run_instrEvents (s : State) (rest : List HostEvent) {is : List Instr} (hwf : ∀ i ∈ is, i.wf = true) :
    run is.length { s with pending := instrEvents is ++ rest } =
      .next (is.foldl State.transact { s with pending := rest }) := by
  induction is generalizing s with
  | nil => rfl
  | cons i is ih =>
    obtain ⟨hi, his⟩ := List.forall_mem_cons.mp hwf
    have hstep : step { s with pending := instrEvents (i :: is) ++ rest } =
        .next (({ s with pending := instrEvents is ++ rest } : State).transact i) := by
      rw [← exec_eq_transact, ← congrArg exec (decode_encode hi)]
      exact step_of_deliver_transaction s (instrEvents is ++ rest) rfl
    rw [List.length_cons, run_succ _ hstep]
    exact ih (s.transact i) his

@[simp] theorem foldl_transact_unit (s : State) (is : List Instr) :
    (is.foldl State.transact s).unit = is.foldl UnitState.transact s.unit :=
  (List.foldl_hom State.unit fun _ _ => rfl).symm

@[simp] theorem foldl_transact_pending (s : State) (is : List Instr) :
    (is.foldl State.transact s).pending = s.pending := by
  induction is generalizing s with
  | nil => rfl
  | cons i is ih => exact ih (s.transact i)

@[simp] theorem foldl_transact_feeds_faults (s : State) (fs : List Feed) :
    ((fs.map Feed.instr).foldl State.transact s).faults = s.faults := by
  induction fs generalizing s with
  | nil => rfl
  | cons f fs ih => simp [ih]

theorem UnitState.feedAll_clearCheck (u : UnitState) (m : List Byte) :
    u.clearCheck.feedAll m = (u.feedAll m).clearCheck := by
  induction m generalizing u with
  | nil => rfl
  | cons b m ih => exact ih (u.feed b)

/-- A list of feeds feeds its bytes in order, however they are grouped (R96). -/
theorem foldl_transact_feeds_unit (u : UnitState) (fs : List Feed) :
    (fs.map Feed.instr).foldl UnitState.transact u = { u.feedAll (fs.flatMap Feed.bytes) with
      done := u.done && fs.isEmpty, matched := u.matched && fs.isEmpty } := by
  induction fs generalizing u with
  | nil => simp
  | cons f fs ih =>
    rw [List.map_cons, List.foldl_cons, ih, UnitState.transact_feed, UnitState.feedAll_clearCheck,
      List.flatMap_cons, UnitState.feedAll_append]
    simp [UnitState.clearCheck]

/-! ## Which STATUS words the host can reach (R25, R123) -/

/-- The host can bring the unit from reset into the state `u`. -/
def UnitState.Reached (u : UnitState) : Prop :=
  ∃ is : List Instr, (∀ i ∈ is, i.wf = true) ∧ is.foldl UnitState.transact UnitState.reset = u

theorem UnitState.reached_reset : UnitState.reset.Reached := ⟨[], by simp, rfl⟩

theorem UnitState.Reached.append {u : UnitState} (h : u.Reached) {js : List Instr} (hjs : ∀ i ∈ js, i.wf = true) :
    (js.foldl UnitState.transact u).Reached := by
  obtain ⟨is, his, rfl⟩ := h
  exact ⟨is ++ js, List.forall_mem_append.mpr ⟨his, hjs⟩, List.foldl_append⟩

theorem UnitState.Reached.transact {u : UnitState} (h : u.Reached) {i : Instr} (hi : i.wf = true) :
    (u.transact i).Reached :=
  h.append (js := [i]) (by simpa using hi)

/-- A reached state of the unit is one that a run of the machine from reset ends in. -/
theorem UnitState.Reached.exists_run {u : UnitState} (h : u.Reached) :
    ∃ es n t, run n (State.reset.submit es) = .next t ∧ t.unit = u := by
  obtain ⟨is, his, rfl⟩ := h
  have hrun := run_instrEvents State.reset [] his
  rw [List.append_nil] at hrun
  exact ⟨instrEvents is, is.length, _, hrun, foldl_transact_unit ..⟩

/-- A read of STATUS answers the STATUS word (R123). -/
theorem rdStatus_answers_iff (t : State) (v : Word) :
    (∃ t', exec .rdStatus t = .next t' ∧ t'.answered v) ↔ t.unit.status = v := by
  rw [exec_eq_transact]
  constructor
  · rintro ⟨t', ht, hans⟩
    injection ht with ht
    subst ht
    injection hans with hans
    exact congrArg Response.rdata hans
  · rintro rfl
    exact ⟨_, rfl, rfl⟩

/-- Each of the twelve values packs its own low four bits, MATCH set only where DONE is. -/
theorem statusValues_bits : ∀ v ∈ statusValues, (v.getLsbD 1 = true → v.getLsbD 0 = true) ∧
    flagBit (v.getLsbD 3) 3 ||| flagBit (v.getLsbD 2) 2 ||| flagBit (v.getLsbD 1) 1 ||| flagBit (v.getLsbD 0) 0 = v := by
  simp [statusValues, flagBit, BitVec.twoPow]

theorem exists_feeds_of_length (n : Nat) : ∃ fs : List Feed, (fs.flatMap Feed.bytes).length = n :=
  ⟨List.replicate n (.byte 0#8), by simp [List.length_flatMap, Feed.bytes]⟩

/-- CNTOVF is reached from reset by feeding 2^32 bytes, with no CHECK and no illegal command. -/
theorem UnitState.exists_reached_cntOvf (o : Bool) :
    ∃ u : UnitState, u.Reached ∧ u.cntOvf = o ∧ u.cmdErr = false ∧ u.matched = false ∧ u.done = false := by
  cases o with
  | false => exact ⟨_, reached_reset, rfl, rfl, rfl, rfl⟩
  | true =>
    obtain ⟨fs, hlen⟩ := exists_feeds_of_length (2 ^ 32)
    have hfed := reached_reset.append (js := fs.map Feed.instr) (by simp)
    rw [foldl_transact_feeds_unit] at hfed
    exact ⟨_, hfed, by simp [feedAll_cntOvf, hlen], by simp [reset], rfl, rfl⟩

/-- An illegal command adds CMDERR. -/
theorem UnitState.exists_reached_sticky (o c : Bool) :
    ∃ u : UnitState, u.Reached ∧ u.cntOvf = o ∧ u.cmdErr = c ∧ u.matched = false ∧ u.done = false := by
  obtain ⟨u, hu, hovf, hcmd, hmatch, hdone⟩ := exists_reached_cntOvf o
  cases c with
  | false => exact ⟨u, hu, hovf, hcmd, hmatch, hdone⟩
  | true => exact ⟨_, hu.transact (i := .ctrlIllegal 3#32) rfl, hovf, rfl, hmatch, hdone⟩

/-- An EXPECT write of RESULT, or of another word, and a CHECK add DONE, with MATCH as wanted. -/
theorem UnitState.exists_reached_flags (o c m d : Bool) (hmd : m = true → d = true) :
    ∃ u : UnitState, u.Reached ∧ u.cntOvf = o ∧ u.cmdErr = c ∧ u.matched = m ∧ u.done = d := by
  obtain ⟨u, hu, hovf, hcmd, hmatch, hdone⟩ := exists_reached_sticky o c
  cases d with
  | false =>
    obtain rfl : m = false := by simpa using hmd
    exact ⟨u, hu, hovf, hcmd, hmatch, hdone⟩
  | true =>
    have checked (w : Word) : ((u.transact (.wrExpect w)).transact .check).Reached :=
      (hu.transact rfl).transact rfl
    have hne : u.result ≠ u.result + 1#32 := by simp
    cases m with
    | true => exact ⟨_, checked u.result, hovf, hcmd, beq_self_eq_true u.result, rfl⟩
    | false => exact ⟨_, checked (u.result + 1#32), hovf, hcmd, beq_false_of_ne hne, rfl⟩

theorem UnitState.exists_reached_status {v : Word} (hv : v ∈ statusValues) :
    ∃ u : UnitState, u.Reached ∧ u.status = v := by
  obtain ⟨hmd, hpack⟩ := statusValues_bits v hv
  obtain ⟨u, hu, hovf, hcmd, hmatch, hdone⟩ := exists_reached_flags (v.getLsbD 3) (v.getLsbD 2) _ _ hmd
  refine ⟨u, hu, ?_⟩
  rw [status, hovf, hcmd, hmatch, hdone, hpack]

end Sys2Proof.Machine

open Sys2Proof Sys2Proof.Machine

/-! ## The statements -/

/-- Settles O39: a step keeps the unit and the response, or resets the unit, or executes a transaction, and a
transaction keeps the invariant of the unit and answers well. -/
theorem everyStepKeepsTheInvariant : Obligations.EveryStepKeepsTheInvariant :=
  fun _ _ => step_inv

/-- Settles O26: STATUS shows the four flags, and RESULT shows S, since XOR with a constant loses nothing. -/
theorem theFourReadsDetermineTheUnit : Obligations.TheFourReadsDetermineTheUnit := by
  intro u v hstatus hexpect hresult hcount
  obtain ⟨hdone, hmatched, hcmdErr, hcntOvf⟩ := UnitState.flags_eq_of_status_eq hstatus
  have hregS : u.regS = v.regS := (BitVec.xor_left_inj _).mp hresult
  cases u; cases v
  simp_all

/-- Settles O33: a step with any other cause keeps S. -/
theorem onlyFeedsInitAndResetChangeS : Obligations.OnlyFeedsInitAndResetChangeS := by
  intro s t h hne
  obtain ⟨hS, -⟩ | hr | hi | ⟨f, hf⟩ := step_keeps_stream_or h
  · exact absurd hS hne
  · exact .inl hr
  · exact .inr (.inl hi)
  · exact .inr (.inr ⟨_, f.isFeed_instr, hf⟩)

/-- Settles O34: the amounts are those of the transaction or of the reset that is next, and a step with any other
cause keeps COUNT. -/
theorem countCountsTheBytesFed : Obligations.CountCountsTheBytesFed := by
  intro s t h
  refine ⟨fun b hb => ?_, fun w hw => ?_, fun hzero => ?_, fun hne => ?_⟩
  · rw [step_of_nextIs hb h]; rfl
  · rw [step_of_nextIs hw h]; exact s.unit.feedAll_count (beBytes w)
  · obtain hr | hi := hzero
    · rw [(step_of_nextIsReset hr h).1]; rfl
    · rw [step_of_nextIs hi h]; rfl
  · obtain ⟨-, hcount⟩ | hr | hi | ⟨b | w, hf⟩ := step_keeps_stream_or h
    · exact absurd hcount hne
    · exact .inl hr
    · exact .inr (.inl hi)
    · exact .inr (.inr (.inl ⟨b, hf⟩))
    · exact .inr (.inr (.inr ⟨w, hf⟩))

/-- Settles O35: a step with any other cause keeps EXPECT. -/
theorem onlyExpectWritesAndResetChangeExpect : Obligations.OnlyExpectWritesAndResetChangeExpect := by
  intro s t h hne
  obtain hu | ⟨hr, hu⟩ | ⟨-, hu⟩ | ⟨-, hu⟩ | ⟨w, -, hu⟩ | ⟨f, -, hu⟩ | ⟨w, hw, hu⟩ := step_unit_cases h
  · exact absurd (by simp [hu]) hne
  · exact .inl ⟨hr, by rw [hu]; rfl⟩
  · exact absurd (by simp [hu]) hne
  · exact absurd (by simp [hu]) hne
  · exact absurd (by simp [hu]) hne
  · exact absurd (by simp [hu]) hne
  · exact .inr ⟨w, hw, by rw [hu]; rfl⟩

/-- Settles O36: for each cause of a step's effect, the flags it leaves need no cause, and the flags it writes have
it as theirs; CHECK writes the comparison to MATCH, and a feed that sets CNTOVF has wrapped COUNT. -/
theorem statusFlagsChangeAsTheTableSays : Obligations.StatusFlagsChangeAsTheTableSays := by
  intro s t h
  obtain hu | ⟨hr, hu⟩ | ⟨hi, hu⟩ | ⟨hc, hu⟩ | ⟨w, hw, hu⟩ | ⟨f, hf, hu⟩ | ⟨w, hw, hu⟩ := step_unit_cases h
  · simp +contextual [hu]
  · simp [hu, UnitState.reset, hr]
  · simp [hu, hi]
  · simp +contextual [hu, hc, UnitState.compare_eq_true_iff, UnitState.compare_eq_false_iff]
  · have hcmd : ∃ w, s.nextIs (.ctrlIllegal w) := ⟨w, hw⟩
    simp +contextual [hu, hcmd]
  · have hfeed : ∃ i, i.isFeed = true ∧ s.nextIs i := ⟨_, f.isFeed_instr, hf⟩
    have hwrap := UnitState.count_lt_of_feed_sets_cntOvf (u := s.unit) (f := f)
    have hkeep : (s.unit.feedAll f.bytes).cntOvf = false → s.unit.cntOvf = false := by
      simp +contextual [UnitState.feedAll_cntOvf]
    refine ⟨by simp [hu], fun _ => .inr (.inr (.inr (.inl hfeed))), by simp [hu],
      fun _ => .inr (.inr (.inr (.inl hfeed))), by simp +contextual [hu], by simp +contextual [hu], ?_, ?_⟩
    · rw [hu]; exact fun h => (hwrap h).imp_right fun hlt => ⟨hfeed, hlt⟩
    · rw [hu]; exact fun h => .inl (hkeep h)
  · have hexp : ∃ w, s.nextIs (.wrExpect w) := ⟨w, hw⟩
    simp +contextual [hu, hexp]

/-- Settles O37: a sticky flag's clearing causes are those of O36; and a transaction's effect and answer, outside the
two flags and a read of STATUS, are the same for any values of them. -/
theorem stickyFlagsStayAndDoNotInterfere : Obligations.StickyFlagsStayAndDoNotInterfere := by
  refine ⟨fun s t h hcleared => ?_, fun i s c o => ?_⟩
  · obtain ⟨-, -, -, -, -, hcmdErr, -, hcntOvf⟩ := statusFlagsChangeAsTheTableSays s t h
    obtain ⟨hset, hclear⟩ | ⟨hset, hclear⟩ := hcleared
    · exact (hcmdErr hclear).resolve_left (by simp [hset])
    · exact (hcntOvf hclear).resolve_left (by simp [hset])
  · have hsame : UnitState.SameButSticky { s.unit with cmdErr := c, cntOvf := o } s.unit := ⟨rfl, rfl, rfl, rfl, rfl⟩
    obtain ⟨hS, hcount, hexpect, hdone, hmatched⟩ := hsame.transact i
    exact ⟨_, _, exec_eq_transact s i, exec_eq_transact _ i, hS, hcount, hexpect, hdone, hmatched,
      fun hi => congrArg some (hsame.answer hi)⟩

/-- Settles O40: the invariant holds at reset and every step keeps it. -/
theorem reachableStatesHaveMatchOnlyWithDone : Obligations.ReachableStatesHaveMatchOnlyWithDone :=
  fun _ _ t h => ⟨t.unit.wf_iff.mp (reachable_inv h).1, t.unit.status_high⟩

/-- Settles O49: the run executes the feeds in order, and their effects compose to that of their bytes. -/
theorem anyGroupingFeedsTheSameStream : Obligations.AnyGroupingFeedsTheSameStream := by
  intro s fs rest
  have hrun := run_instrEvents s rest (is := fs.map Feed.instr) (by simp)
  rw [List.length_map, ← feedEvents_eq] at hrun
  refine ⟨_, hrun, foldl_transact_pending .., foldl_transact_feeds_faults .., ?_⟩
  rw [foldl_transact_unit, foldl_transact_feeds_unit, UnitState.feedAll_eq]

/-- Settles O57: a reachable state meets the invariant, so its STATUS is one of the twelve; and each of the twelve
packs four flags, MATCH only with DONE, which the host can reach. -/
theorem statusReadsExactlyTheReachableValues : Obligations.StatusReadsExactlyTheReachableValues := by
  intro v
  constructor
  · rintro ⟨es, n, t, t', hrun, hread⟩
    obtain rfl := (rdStatus_answers_iff t v).mp ⟨t', hread⟩
    exact t.unit.wf_iff_status_mem.mp (reachable_inv hrun).1
  · intro hv
    obtain ⟨u, hu, rfl⟩ := UnitState.exists_reached_status hv
    obtain ⟨es, n, t, hrun, rfl⟩ := hu.exists_run
    obtain ⟨t', hread⟩ := (rdStatus_answers_iff t t.unit.status).mpr rfl
    exact ⟨es, n, t, t', hrun, hread⟩

/-- Settles O1: the reset values are written out in the model, and RESULT and STATUS are computed from them. -/
theorem resetLeavesStatedValues : Obligations.ResetLeavesStatedValues := ⟨rfl, rfl, rfl⟩

/-- Settles O38: MATCH is 0 at reset, and there is no response yet. -/
theorem resetMeetsTheInvariant : Obligations.ResetMeetsTheInvariant := reset_inv
end

section
/-! Proofs for 20_memory.md: which descriptors are bus errors and what one leaves; reads, feeds and writes that are
repeated; and what the later of two transactions sees. -/

namespace Sys2Proof

/-! ## Which descriptors are bus errors (R55, R79) -/

@[simp] theorem decodeRead_not_isBusError (r : Reg) : (decodeRead r).isBusError = false := by cases r <;> rfl

@[simp] theorem decodeCommand_not_isBusError (w : Word) : (decodeCommand w).isBusError = false := by
  obtain ⟨-, h⟩ | ⟨-, h⟩ | ⟨-, h⟩ | ⟨-, -, -, h⟩ := decodeCommand_cases w
  all_goals rw [h]; rfl

@[simp] theorem decodeWrite_not_isBusError (w : Word) (r : Reg) : (decodeWrite w r).isBusError = false := by
  cases r
  case ctrl => exact decodeCommand_not_isBusError w
  all_goals rfl

theorem Reg.offset_ne_reserved (r : Reg) : r.offset ≠ 0x1C#5 := by cases r <;> decide

/-- The three tests that come before the register and the direction in R79 are the ones that find a bus error. -/
theorem decode_isBusError_iff (d : Descriptor) :
    (decode d).isBusError = true ↔
      fieldSIZE d ≠ 0b10#2 ∨ addrLow (fieldADDR d) ≠ 0b00#2 ∨ fieldADDR d = 0x1C#5 := by
  obtain ⟨hs, h⟩ | ⟨hs, h⟩ | ⟨hs, h⟩ | ⟨hs, htests⟩ := decode_cases d
  iterate 3 · simp [h, hs, Instr.isBusError]
  obtain ⟨ha, h⟩ | ⟨ha, h⟩ | ⟨ha, h⟩ | ⟨ha, h⟩ | ⟨r, ha, hr⟩ := htests
  iterate 4 · simp [h, ha, Instr.isBusError]
  · have hbus : (decode d).isBusError = false := by
      obtain ⟨-, h⟩ | ⟨-, h⟩ := hr
      · rw [h, decodeRead_not_isBusError]
      · rw [h, decodeWrite_not_isBusError]
    simp [hbus, hs, ha, r.offset_ne_reserved]

end Sys2Proof

namespace Sys2Proof.Machine

/-! ## What a bus error answers and leaves (R71, R160) -/

@[simp] theorem UnitState.answer_err (u : UnitState) (i : Instr) : (u.answer i).err = i.isBusError := by
  unfold answer; split <;> simp_all

theorem UnitState.answer_of_isBusError (u : UnitState) {i : Instr} (h : i.isBusError = true) :
    u.answer i = ⟨0#32, true⟩ := if_pos h

theorem UnitState.transact_of_isBusError (u : UnitState) {i : Instr} (h : i.isBusError = true) :
    u.transact i = u := by
  obtain hu | ⟨rfl, -⟩ | ⟨rfl, -⟩ | ⟨w, rfl, -⟩ | ⟨b | w, rfl, -⟩ | ⟨w, rfl, -⟩ := u.transact_cases i
  · exact hu
  all_goals cases h

/-! ## Repeated transactions (R56) -/

theorem exec_eq_next_iff {i : Instr} {s t : State} : exec i s = .next t ↔ s.transact i = t := by
  rw [exec_eq_transact, Host.Outcome.next.injEq]

/-- Every successful read is the read of one register (R79, test 4). -/
theorem exec_of_isRead {i : Instr} (h : i.isRead = true) : ∃ r, ∀ s, exec i s = .next (s.ackRead r) := by
  cases i
  case rdCtrl | rdStatus | rdData8 | rdData32 | rdExpect | rdResult | rdCount => exact ⟨_, fun _ => rfl⟩
  all_goals cases h

/-- A read leaves what it answers as it was, so that it answers the same again. -/
@[simp] theorem State.ackRead_ackRead (s : State) (r : Reg) : (s.ackRead r).ackRead r = s.ackRead r := rfl

/-- The acknowledgement of an EXPECT write stands as it is when the same write is repeated (R116). -/
theorem State.ackWrite_writeExpect_repeat (s : State) (w : Word) :
    (s.ackWrite (s.unit.writeExpect w)).ackWrite ((s.ackWrite (s.unit.writeExpect w)).unit.writeExpect w) =
      s.ackWrite (s.unit.writeExpect w) := rfl

/-- Two equal feeds feed the bytes twice: neither is merged with the other (R56, R96). -/
theorem exec_feed_repeat {f : Feed} {s t : State} (h : exec f.instr s = .next t) :
    ∃ t', exec f.instr t = .next t' ∧ t'.unit.regS = crcFold s.unit.regS (f.bytes ++ f.bytes) ∧
      t'.unit.count = s.unit.count + BitVec.ofNat 32 (f.bytes ++ f.bytes).length := by
  obtain rfl := exec_eq_next_iff.mp h
  have hunit := foldl_transact_feeds_unit s.unit [f, f]
  have hbytes : [f, f].flatMap Feed.bytes = f.bytes ++ f.bytes := by simp
  rw [hbytes] at hunit
  refine ⟨_, exec_eq_transact .., ?_, ?_⟩
  · exact (congrArg UnitState.regS hunit).trans (UnitState.feedAll_regS ..)
  · exact (congrArg UnitState.count hunit).trans (UnitState.feedAll_count ..)

/-! ## Transactions one after the other (R60) -/

/-- A run takes the oldest waiting transaction and goes on from the state it leaves, the later ones still waiting. -/
theorem run_succ_transaction (s : State) (d : Descriptor) (rest : List HostEvent) (n : Nat) :
    run (n + 1) { s with pending := .transaction d :: rest } =
      run n { s.transact (decode d) with pending := rest } :=
  run_succ n ((step_of_deliver_transaction s rest rfl).trans (exec_eq_transact ..))

/-- An EXPECT write, a CHECK and a read of STATUS, written as the host's operations, are their instructions (R83). -/
theorem hostEvents_expectCheckStatus (w : Word) :
    hostEvents [wrReg .expect w, wrReg .ctrl 2#32, rdReg .status] = instrEvents [.wrExpect w, .check, .rdStatus] := rfl

end Sys2Proof.Machine

open Sys2Proof Sys2Proof.Machine

/-! ## The statements -/

/-- Settles O8: a run goes on from the state that the first transaction leaves; RESULT is then that of the fed S, and
CHECK compares it with the EXPECT just written. -/
theorem laterTransactionSeesEarlierEffects : Obligations.LaterTransactionSeesEarlierEffects := by
  refine ⟨fun s t d1 d2 rest h => ?_, fun s b rest => ?_, fun s w rest => ?_⟩
  · obtain rfl := exec_eq_next_iff.mp h
    calc run 2 { s with pending := .transaction d1 :: .transaction d2 :: rest }
        = run 1 { s.transact (decode d1) with pending := .transaction d2 :: rest } := run_succ_transaction ..
      _ = run 0 { (s.transact (decode d1)).transact (decode d2) with pending := rest } := run_succ_transaction ..
      _ = exec (decode d2) { s.transact (decode d1) with pending := rest } :=
        (exec_eq_transact { s.transact (decode d1) with pending := rest } (decode d2)).symm
  · exact ⟨_, run_instrEvents s rest (is := [.feed8 b, .rdResult]) (by simp [Instr.wf]), rfl⟩
  · have hrun := run_instrEvents s rest (is := [.wrExpect w, .check, .rdStatus]) (by simp [Instr.wf])
    rw [← hostEvents_expectCheckStatus] at hrun
    refine ⟨_, (s.unit.writeExpect w).checkResult.status, hrun, rfl, UnitState.status_bit0 _, ?_⟩
    rw [UnitState.status_bit1]
    exact (s.unit.writeExpect w).compare_eq_true_iff

/-- Settles O25: a read only sets the response, to a value it does not change; a feed repeated feeds its bytes again;
an EXPECT write repeated finds the EXPECT and the cleared flags that it writes. -/
theorem readsAreIdempotentAndFeedsAreNot : Obligations.ReadsAreIdempotentAndFeedsAreNot := by
  refine ⟨fun i s hread => ?_, fun b s t h => exec_feed_repeat (f := .byte b) h,
    fun w s t h => exec_feed_repeat (f := .word w) h, fun w s t h => ?_, fun w i s t hi h => ?_⟩
  · obtain ⟨r, hexec⟩ := exec_of_isRead hread
    exact ⟨s.ackRead r, hexec s, rfl, rfl, rfl, by rw [hexec, State.ackRead_ackRead]⟩
  · obtain rfl : s.ackWrite (s.unit.writeExpect w) = t := Host.Outcome.next.inj h
    exact ⟨congrArg Host.Outcome.next (s.ackWrite_writeExpect_repeat w), rfl, rfl⟩
  · obtain rfl := exec_eq_next_iff.mp h
    obtain rfl | rfl | rfl := hi <;> rfl

/-- Settles O30: the response has err = 1 exactly for a bus error, which the decoder's first three tests find; a bus
error answers 0 and leaves the unit. -/
theorem errExactlyForIllegalAccesses : Obligations.ErrExactlyForIllegalAccesses := by
  intro d s
  refine ⟨_, _, exec_eq_transact s _, rfl, ?_, fun herr => ?_⟩
  · rw [UnitState.answer_err]
    exact decode_isBusError_iff d
  · rw [UnitState.answer_err] at herr
    exact ⟨congrArg Response.rdata (s.unit.answer_of_isBusError herr), s.unit.transact_of_isBusError herr⟩
end

section
/-! Proofs for 30_encoding.md: the decoder against the order of its tests and against the opcode table; the encoder as
the decoder's inverse up to the bits that the unit ignores; and the host's expansions, run as instructions. -/

namespace Sys2Proof

/-! ## Mnemonics by register and direction (R79) -/

/-- The reserved offset is aligned: only the test after ALIGN finds it. -/
@[simp] theorem addrLow_reserved : addrLow 0x1C#5 = 0b00#2 := rfl

theorem mnemonic_decodeRead (r : Reg) : (decodeRead r).mnemonic =
    if r.offset = 0x00#5 then "RD_CTRL" else if r.offset = 0x04#5 then "RD_STATUS"
    else if r.offset = 0x08#5 then "RD_DATA8" else if r.offset = 0x0C#5 then "RD_DATA32"
    else if r.offset = 0x10#5 then "RD_EXPECT" else if r.offset = 0x14#5 then "RD_RESULT"
    else "RD_COUNT" := by
  cases r <;> rfl

theorem mnemonic_decodeCommand (w : Word) : (decodeCommand w).mnemonic =
    if w = 0#32 then "CTRL_NOP" else if w = 1#32 then "INIT" else if w = 2#32 then "CHECK" else "CTRL_ILLEGAL" := by
  simp only [decodeCommand, apply_ite Instr.mnemonic]; rfl

theorem mnemonic_decodeWrite (w : Word) (r : Reg) : (decodeWrite w r).mnemonic =
    if r.offset = 0x00#5 then (decodeCommand w).mnemonic
    else if r.offset = 0x04#5 then "WR_STATUS" else if r.offset = 0x08#5 then "FEED8"
    else if r.offset = 0x0C#5 then "FEED32" else if r.offset = 0x10#5 then "WR_EXPECT"
    else if r.offset = 0x14#5 then "WR_RESULT" else "WR_COUNT" := by
  cases r <;> rfl

/-! ## The opcode table by fields (R80) -/

theorem Reg.offset_inj {r r' : Reg} : r.offset = r'.offset ↔ r = r' := by
  cases r <;> cases r' <;> decide

/-- A row of BUSERR_SIZE looks at SIZE only. -/
def sizeRow (size : Size) : OpcodeRow :=
  ⟨"BUSERR_SIZE", mkDescriptor false size 0x00#5 0#32, mkDescriptor false 0b11#2 0x00#5 0#32⟩

/-- A row of BUSERR_ALIGN looks at SIZE and ADDR[1:0]. -/
def alignRow (low : BitVec 2) : OpcodeRow :=
  ⟨"BUSERR_ALIGN", mkDescriptor false 0b10#2 (mkAddr 0#3 low) 0#32, mkDescriptor false 0b11#2 0x03#5 0#32⟩

/-- The row of BUSERR_UNMAPPED looks at SIZE and ADDR. -/
def unmappedRow : OpcodeRow :=
  ⟨"BUSERR_UNMAPPED", mkDescriptor false 0b10#2 0x1C#5 0#32, mkDescriptor false 0b11#2 0x1F#5 0#32⟩

/-- The row of a register's read or write looks at WE, SIZE and ADDR. -/
def regRow (mnemonic : String) (we : Bool) (r : Reg) : OpcodeRow :=
  ⟨mnemonic, mkDescriptor we 0b10#2 r.offset 0#32, 0xFF00000000#40⟩

/-- The row of a command looks at the whole descriptor. -/
def commandRow (mnemonic : String) (w : Word) : OpcodeRow := ⟨mnemonic, encodeWrite .ctrl w, 0xFFFFFFFFFF#40⟩

/-- spec/opcode_table.json with its numbers taken apart into the fields of R70. -/
theorem opcodeTable_eq_fields : opcodeTable =
    [sizeRow 0b00#2, sizeRow 0b01#2, sizeRow 0b11#2, alignRow 0b01#2, alignRow 0b10#2, alignRow 0b11#2, unmappedRow,
      regRow "RD_CTRL" false .ctrl, regRow "RD_STATUS" false .status, regRow "RD_DATA8" false .data8,
      regRow "RD_DATA32" false .data32, regRow "RD_EXPECT" false .expect, regRow "RD_RESULT" false .result,
      regRow "RD_COUNT" false .count,
      commandRow "CTRL_NOP" 0#32, commandRow "INIT" 1#32, commandRow "CHECK" 2#32,
      regRow "CTRL_ILLEGAL" true .ctrl, regRow "WR_STATUS" true .status, regRow "FEED8" true .data8,
      regRow "FEED32" true .data32, regRow "WR_EXPECT" true .expect, regRow "WR_RESULT" true .result,
      regRow "WR_COUNT" true .count] := rfl

@[simp] theorem size_and_ones (size : Size) : size &&& 0b11#2 = size := BitVec.and_allOnes

@[simp] theorem offset_and_ones (addr : Offset) : addr &&& 0b11111#5 = addr := BitVec.and_allOnes

/-- The row that an instruction's constructor stands for has the instruction's mnemonic. -/
theorem row_map_mnemonic (i : Instr) : i.row.map OpcodeRow.mnemonic = some i.mnemonic := by
  cases i <;> rfl

section Rows
variable (d : Descriptor)

theorem OpcodeRow.holds_iff (row : OpcodeRow) : row.holds d = true ↔ d &&& row.mask = row.pattern := beq_iff_eq

theorem sizeRow_holds (size : Size) : (sizeRow size).holds d = decide (fieldSIZE d = size) := by
  rw [Bool.eq_iff_iff, OpcodeRow.holds_iff, decide_eq_true_iff, sizeRow, and_mkDescriptor, mkDescriptor_inj]
  simp

theorem and_lowMask_eq_iff (a : Offset) (low : BitVec 2) : a &&& 0x03#5 = mkAddr 0#3 low ↔ addrLow a = low := by
  revert a low; decide

theorem alignRow_holds (low : BitVec 2) :
    (alignRow low).holds d = decide (fieldSIZE d = 0b10#2 ∧ addrLow (fieldADDR d) = low) := by
  rw [Bool.eq_iff_iff, OpcodeRow.holds_iff, decide_eq_true_iff, alignRow, and_mkDescriptor, mkDescriptor_inj,
    and_lowMask_eq_iff]
  simp

theorem unmappedRow_holds :
    unmappedRow.holds d = decide (fieldSIZE d = 0b10#2 ∧ fieldADDR d = 0x1C#5) := by
  rw [Bool.eq_iff_iff, OpcodeRow.holds_iff, decide_eq_true_iff, unmappedRow, and_mkDescriptor, mkDescriptor_inj]
  simp

theorem regRow_holds (mnemonic : String) (we : Bool) (r : Reg) :
    (regRow mnemonic we r).holds d = decide (fieldWE d = we ∧ fieldSIZE d = 0b10#2 ∧ fieldADDR d = r.offset) := by
  rw [Bool.eq_iff_iff, OpcodeRow.holds_iff, decide_eq_true_iff]
  exact and_topByte d we 0b10#2 r.offset

theorem commandRow_holds (mnemonic : String) (w : Word) : (commandRow mnemonic w).holds d =
    decide (fieldWE d = true ∧ fieldSIZE d = 0b10#2 ∧ fieldADDR d = Reg.ctrl.offset ∧ fieldWDATA d = w) := by
  rw [Bool.eq_iff_iff, OpcodeRow.holds_iff, decide_eq_true_iff, commandRow, and_fullMask]
  conv_lhs => rw [← mkDescriptor_fields d]
  exact mkDescriptor_inj

end Rows

/-! ## The first row that matches (R80) -/

section FirstRow
variable {d : Descriptor} {r : Reg}

/-- The rows of the bus errors come first; none of them holds of a legal access. -/
theorem tableRow_of_legal (hs : fieldSIZE d = 0b10#2) (ha : fieldADDR d = r.offset) :
    tableRow d = (opcodeTable.drop 7).find? fun row => row.holds d := by
  have hnone : ∀ row ∈ opcodeTable.take 7, ¬ row.holds d := by
    simp [opcodeTable_eq_fields, sizeRow_holds, alignRow_holds, unmappedRow_holds, hs, ha, r.offset_ne_reserved]
  rw [tableRow, ← List.take_append_drop 7 opcodeTable, List.find?_append, List.find?_eq_none.mpr hnone]
  rfl

theorem tableRow_of_read (hs : fieldSIZE d = 0b10#2) (ha : fieldADDR d = r.offset) (hwe : fieldWE d = false) :
    tableRow d = (decodeRead r).row := by
  rw [tableRow_of_legal hs ha, opcodeTable_eq_fields]
  cases r <;> simp [regRow_holds, hs, ha, hwe, Reg.offset_inj, decodeRead, Instr.row, opcodeTable_eq_fields]

/-- The rows of the three commands come before that of CTRL_ILLEGAL, which holds of every write to CTRL. -/
theorem tableRow_of_write (hs : fieldSIZE d = 0b10#2) (ha : fieldADDR d = r.offset) (hwe : fieldWE d = true) :
    tableRow d = (decodeWrite (fieldWDATA d) r).row := by
  rw [tableRow_of_legal hs ha, opcodeTable_eq_fields]
  cases r
  case ctrl =>
    obtain ⟨hw, h⟩ | ⟨hw, h⟩ | ⟨hw, h⟩ | ⟨h0, h1, h2, h⟩ := decodeCommand_cases (fieldWDATA d)
    all_goals rw [decodeWrite, h]
    iterate 3 · simp [commandRow_holds, regRow_holds, hs, ha, hwe, hw, Instr.row, opcodeTable_eq_fields]
    · simp [commandRow_holds, regRow_holds, hs, ha, hwe, h0, h1, h2, Instr.row, opcodeTable_eq_fields]
  all_goals
    simp [commandRow_holds, regRow_holds, hs, ha, hwe, Reg.offset_inj, decodeWrite, Instr.row, opcodeTable_eq_fields]

theorem tableRow_eq (d : Descriptor) : tableRow d = (decode d).row := by
  obtain ⟨hs, h⟩ | ⟨hs, h⟩ | ⟨hs, h⟩ | ⟨hs, htests⟩ := decode_cases d
  iterate 3 · simp [h, hs, tableRow, opcodeTable_eq_fields, Instr.row, sizeRow_holds]
  obtain ⟨ha, h⟩ | ⟨ha, h⟩ | ⟨ha, h⟩ | ⟨ha, h⟩ | ⟨r, ha, ⟨hwe, h⟩ | ⟨hwe, h⟩⟩ := htests
  iterate 3 · simp [h, hs, ha, tableRow, opcodeTable_eq_fields, Instr.row, sizeRow_holds, alignRow_holds]
  · simp [h, hs, ha, tableRow, opcodeTable_eq_fields, Instr.row, sizeRow_holds, alignRow_holds, unmappedRow_holds,
      addrLow_reserved]
  · rw [h, tableRow_of_read hs ha hwe]
  · rw [h, tableRow_of_write hs ha hwe]

end FirstRow

/-! ## Encoding what was decoded (R74, R76) -/

/-- The mask of FEED8 keeps the fields of R70 but WDATA[31:8]. -/
theorem and_byteMask (d : Descriptor) : d &&& 0xFF000000FF#40 =
    mkDescriptor (fieldWE d) (fieldSIZE d) (fieldADDR d) (((fieldWDATA d).extractLsb' 0 8).setWidth 32) := by
  have hw : fieldWDATA d &&& 0xFF#32 = ((fieldWDATA d).extractLsb' 0 8).setWidth 32 := by
    have hmod := Nat.and_two_pow_sub_one_eq_mod (fieldWDATA d).toNat 8
    have hlt : (fieldWDATA d).toNat % 256 < 4294967296 := by omega
    apply BitVec.eq_of_toNat_eq
    simpa [Nat.mod_eq_of_lt hlt] using hmod
  rw [show (0xFF000000FF#40 : Descriptor) = mkDescriptor true 0b11#2 0b11111#5 0xFF#32 from rfl, and_mkDescriptor,
    Bool.and_true, size_and_ones, offset_and_ones, hw]

theorem encode_decodeRead (r : Reg) : encode (decodeRead r) = encodeRead r := by cases r <;> rfl

theorem encode_decodeCommand (w : Word) : encode (decodeCommand w) = encodeWrite .ctrl w := by
  obtain ⟨rfl, h⟩ | ⟨rfl, h⟩ | ⟨rfl, h⟩ | ⟨-, -, -, h⟩ := decodeCommand_cases w
  all_goals rw [h]; rfl

theorem encode_decodeWrite {r : Reg} (w : Word) (hr : r ≠ .data8) : encode (decodeWrite w r) = encodeWrite r w := by
  cases r
  case ctrl => exact encode_decodeCommand w
  case data8 => exact absurd rfl hr
  all_goals rfl

@[simp] theorem decodeRead_isRead (r : Reg) : (decodeRead r).isRead = true := by cases r <;> rfl

@[simp] theorem decodeWrite_isRead (w : Word) (r : Reg) : (decodeWrite w r).isRead = false := by
  cases r
  case ctrl =>
    obtain ⟨-, h⟩ | ⟨-, h⟩ | ⟨-, h⟩ | ⟨-, -, -, h⟩ := decodeCommand_cases w
    all_goals rw [decodeWrite, h]; rfl
  all_goals rfl

theorem decodeWrite_ne_feed8 {r : Reg} (w : Word) (b : Byte) (hr : r ≠ .data8) : decodeWrite w r ≠ .feed8 b := by
  cases r
  case ctrl =>
    obtain ⟨-, h⟩ | ⟨-, h⟩ | ⟨-, h⟩ | ⟨-, -, -, h⟩ := decodeCommand_cases w
    all_goals rw [decodeWrite, h]; exact nofun
  case data8 => exact absurd rfl hr
  all_goals exact nofun

section Canonical
variable {d : Descriptor}

theorem canonical_of_isRead (h : (decode d).isRead = true) : canonical d = d &&& 0xFF00000000#40 := by
  unfold canonical
  cases hd : decode d
  case rdCtrl | rdStatus | rdData8 | rdData32 | rdExpect | rdResult | rdCount => rfl
  all_goals rw [hd] at h; cases h

theorem canonical_of_feed8 {b : Byte} (h : decode d = .feed8 b) : canonical d = d &&& 0xFF000000FF#40 := by
  rw [canonical, h]

theorem canonical_of_kept (hread : (decode d).isRead = false) (hfeed : ∀ b, decode d ≠ .feed8 b) :
    canonical d = d := by
  unfold canonical
  cases hd : decode d
  case feed8 b => exact absurd hd (hfeed b)
  case rdCtrl | rdStatus | rdData8 | rdData32 | rdExpect | rdResult | rdCount => rw [hd] at hread; cases hread
  all_goals rfl

end Canonical

/-- The encoder gives back the fields that the instruction holds, and 0 where the unit ignores the bits. -/
theorem encode_decode (d : Descriptor) : encode (decode d) = canonical d := by
  have hd := mkDescriptor_fields d
  have haddr := mkAddr_parts (fieldADDR d)
  obtain ⟨hs, h⟩ | ⟨hs, h⟩ | ⟨hs, h⟩ | ⟨hs, htests⟩ := decode_cases d
  iterate 3 · rw [hs] at hd; rw [canonical, h]; exact hd
  rw [hs] at hd
  obtain ⟨ha, h⟩ | ⟨ha, h⟩ | ⟨ha, h⟩ | ⟨ha, h⟩ | ⟨r, ha, ⟨hwe, h⟩ | ⟨hwe, h⟩⟩ := htests
  iterate 3 · rw [ha] at haddr; rw [canonical, h, encode, haddr]; exact hd
  · rw [ha] at hd; rw [canonical, h]; exact hd
  · have hread : (decode d).isRead = true := by rw [h, decodeRead_isRead]
    rw [canonical_of_isRead hread, h, encode_decodeRead]
    exact ((and_topByte d false 0b10#2 r.offset).mpr ⟨hwe, hs, ha⟩).symm
  · by_cases hr : r = .data8
    · subst hr
      rw [canonical_of_feed8 h, h, and_byteMask, hwe, hs, ha]; rfl
    · have hread : (decode d).isRead = false := by rw [h, decodeWrite_isRead]
      have hfeed (b : Byte) : decode d ≠ .feed8 b := by rw [h]; exact decodeWrite_ne_feed8 _ b hr
      rw [canonical_of_kept hread hfeed, h, encode_decodeWrite _ hr]
      rw [hwe, ha] at hd
      exact hd

end Sys2Proof

namespace Sys2Proof.Machine

/-! ## The expansion of FEED (R84) -/

/-- FEED writes words to DATA32 and then at most three bytes to DATA8, which hold its bytes in order. -/
theorem feedOps_eq (bs : List Byte) : ∃ (ws : List Word) (tail : List Byte),
    feedOps bs = ws.map (wrReg .data32) ++ tail.map (fun b => wrReg .data8 (zext32 b)) ∧
    ws.flatMap beBytes ++ tail = bs ∧ tail.length < 4 := by
  fun_induction feedOps bs with
  | case1 b0 b1 b2 b3 rest ih =>
    obtain ⟨ws, tail, hops, rfl, hlen⟩ := ih
    exact ⟨be32 b0 b1 b2 b3 :: ws, tail, by simp [hops], by simp, hlen⟩
  | case2 rest hshort =>
    refine ⟨[], rest, rfl, rfl, ?_⟩
    match rest with
    | b0 :: b1 :: b2 :: b3 :: rest => exact absurd rfl (hshort b0 b1 b2 b3 rest)
    | [_, _, _] | [_, _] | [_] | [] => simp

@[simp] theorem fieldADDR_assemble_wrReg (r : Reg) (v : Word) : fieldADDR (wrReg r v).assemble = r.offset :=
  fieldADDR_mkDescriptor ..

/-- How many operations of FEED are of each kind. -/
theorem feedOps_counts (bs : List Byte) :
    ((feedOps bs).filter fun op => fieldADDR op.assemble == Reg.data32.offset).length = bs.length / 4 ∧
    ((feedOps bs).filter fun op => fieldADDR op.assemble == Reg.data8.offset).length = bs.length % 4 ∧
    (feedOps bs).length = bs.length / 4 + bs.length % 4 := by
  obtain ⟨ws, tail, hops, rfl, hlt⟩ := feedOps_eq bs
  have hlen : (ws.flatMap beBytes ++ tail).length = 4 * ws.length + tail.length := by
    simp [List.length_flatMap, Nat.mul_comm]
  have hdiv : (4 * ws.length + tail.length) / 4 = ws.length := by omega
  have hmod : (4 * ws.length + tail.length) % 4 = tail.length := by omega
  rw [hops, hlen, hdiv, hmod]
  simp [List.filter_map, Function.comp_def, Reg.offset_inj]

/-- FEED's operations are feeding transactions that feed its bytes in order. -/
theorem exists_feeds_of_feedOps (bs : List Byte) : ∃ fs : List Feed,
    hostEvents (feedOps bs) = instrEvents (fs.map Feed.instr) ∧ fs.flatMap Feed.bytes = bs := by
  obtain ⟨ws, tail, hops, rfl, -⟩ := feedOps_eq bs
  refine ⟨ws.map .word ++ tail.map .byte, ?_, ?_⟩
  · rw [hops, hostEvents, instrEvents]
    simp only [List.map_append, List.map_map]
    rfl
  · simp [List.flatMap_map, Feed.bytes]

/-! ## Runs of the host's operations (R83) -/

theorem hostEvents_append (ops ops' : List AsmOp) : hostEvents (ops ++ ops') = hostEvents ops ++ hostEvents ops' :=
  List.map_append

theorem instrEvents_append (is is' : List Instr) : instrEvents (is ++ is') = instrEvents is ++ instrEvents is' :=
  List.map_append

/-- Waiting operations take effect as the instructions that they assemble to. -/
theorem run_hostEvents (s : State) (rest : List HostEvent) {ops : List AsmOp} {is : List Instr}
    (h : hostEvents ops = instrEvents is) (hwf : ∀ i ∈ is, i.wf = true) :
    run ops.length { s with pending := hostEvents ops ++ rest } =
      .next (is.foldl State.transact { s with pending := rest }) := by
  have hlen : ops.length = is.length := by
    simpa [hostEvents, instrEvents] using congrArg List.length h
  rw [h, hlen, run_instrEvents s rest hwf]

/-- A feeding transaction leaves the machine as the byte writes of its bytes do (R96). -/
theorem transact_feed_eq_bytes (s : State) (f : Feed) :
    s.transact f.instr = (f.bytes.map Instr.feed8).foldl State.transact s := by
  have byte (s : State) (b : Byte) : s.transact (.feed8 b) = s.after (s.unit.feed b).clearCheck ⟨0#32, false⟩ [] :=
    congrArg (s.after _ _) (s.unit.faultsOf_feed (.byte b))
  cases f with
  | byte b => rfl
  | word w =>
    rw [State.transact, UnitState.transact_feed, UnitState.answer_feed, UnitState.faultsOf_feed]
    simp [Feed.bytes, beBytes, byte, State.after, UnitState.clearCheck]

theorem foldl_transact_feeds_eq_bytes (s : State) (fs : List Feed) :
    (fs.map Feed.instr).foldl State.transact s =
      ((fs.flatMap Feed.bytes).map Instr.feed8).foldl State.transact s := by
  induction fs generalizing s with
  | nil => rfl
  | cons f fs ih =>
    rw [List.map_cons, List.foldl_cons, ih, transact_feed_eq_bytes, List.flatMap_cons, List.map_append,
      List.foldl_append]

/-- Only the bytes that feeds feed, and not how they are grouped, decide what they leave (R96). -/
theorem foldl_transact_feeds_congr {s : State} {fs gs : List Feed}
    (h : fs.flatMap Feed.bytes = gs.flatMap Feed.bytes) :
    (fs.map Feed.instr).foldl State.transact s = (gs.map Feed.instr).foldl State.transact s := by
  rw [foldl_transact_feeds_eq_bytes, h, foldl_transact_feeds_eq_bytes]

/-! ## Validation (R145) -/

/-- The instructions of validation, when FEED is the feeds `fs` and the crc field is `w` (R145). -/
def validationInstrs (fs : List Feed) (w : Word) : List Instr :=
  .init :: (fs.map Feed.instr ++ [Instr.wrExpect w, Instr.check, Instr.rdStatus])

theorem validationInstrs_wf (fs : List Feed) (w : Word) : ∀ i ∈ validationInstrs fs w, i.wf = true :=
  List.forall_mem_cons.mpr ⟨rfl, List.forall_mem_append.mpr ⟨by simp, by simp [Instr.wf]⟩⟩

theorem exists_feeds_of_validateOps (ty : ChunkType) (data : List Byte) (crcfd : Word) : ∃ fs : List Feed,
    hostEvents (validateOps ty data crcfd) = instrEvents (validationInstrs fs crcfd) ∧
    fs.flatMap Feed.bytes = crcInput ty data := by
  obtain ⟨fs, hfeeds, hbytes⟩ := exists_feeds_of_feedOps (crcInput ty data)
  refine ⟨fs, ?_, hbytes⟩
  have hops : validateOps ty data crcfd = [wrReg .ctrl 1#32] ++ (feedOps (crcInput ty data) ++
      [wrReg .expect crcfd, wrReg .ctrl 2#32, rdReg .status]) := rfl
  have hinit : hostEvents [wrReg .ctrl 1#32] = instrEvents [.init] := rfl
  rw [hops, hostEvents_append, hostEvents_append, hinit, hfeeds, hostEvents_expectCheckStatus, ← instrEvents_append,
    ← instrEvents_append, List.singleton_append, validationInstrs]

/-- The unit after INIT, feeds of the bytes `m`, an EXPECT write of `w` and CHECK (R145). -/
def UnitState.validated (u : UnitState) (m : List Byte) (w : Word) : UnitState :=
  ((u.initialise.feedAll m).writeExpect w).checkResult

/-- MATCH and DONE are the low two bits of STATUS (R24). -/
theorem UnitState.status_low (u : UnitState) :
    u.status.extractLsb' 0 2 = BitVec.ofBool u.matched ++ BitVec.ofBool u.done := by
  unfold status
  cases u.cntOvf <;> cases u.cmdErr <;> cases u.matched <;> cases u.done <;> rfl

/-- No verdict while DONE is 0, and then the one that MATCH gives (R26, R145). -/
theorem verdictOf_status (u : UnitState) :
    verdictOf u.status = if u.done then (if u.matched then .valid else .invalid) else .notChecked := by
  rw [verdictOf, u.status_bit0, u.status_bit1]

section Validated
variable (u : UnitState) (m : List Byte) (w : Word)

@[simp] theorem UnitState.validated_done : (u.validated m w).done = true := rfl

/-- CHECK compares EXPECT with the crc of the bytes fed since INIT (R94, R111). -/
@[simp] theorem UnitState.validated_matched : (u.validated m w).matched = decide (w = crc m) := by
  rw [Bool.eq_iff_iff, decide_eq_true_iff, validated, checkResult_matched, compare_eq_true_iff, eq_comm]
  simp [crc, crcState]

theorem UnitState.validated_cmdErr : (u.validated m w).cmdErr = false := by simp [validated]

theorem UnitState.validated_cntOvf : (u.validated m w).cntOvf = decide (2 ^ 32 ≤ m.length) := by
  simp [validated, feedAll_cntOvf]

theorem UnitState.status_low_validated :
    (u.validated m w).status.extractLsb' 0 2 = if w = crc m then 0b11#2 else 0b01#2 := by
  rw [status_low, validated_matched, validated_done]
  by_cases h : w = crc m <;> simp [h]

/-- The whole STATUS word after the CHECK of a valid chunk whose bytes COUNT can count (R145). -/
theorem UnitState.status_validated {u : UnitState} {m : List Byte} {w : Word} (hfits : m.length < 2 ^ 32)
    (hcrc : w = crc m) : (u.validated m w).status = 0x00000003#32 := by
  rw [status, validated_cntOvf, validated_cmdErr, validated_matched, validated_done, decide_eq_true hcrc,
    decide_eq_false (Nat.not_le.mpr hfits)]
  rfl

theorem foldl_transact_validation (fs : List Feed) :
    (validationInstrs fs w).foldl UnitState.transact u = u.validated (fs.flatMap Feed.bytes) w := by
  rw [validationInstrs, List.foldl_cons, List.foldl_append, foldl_transact_feeds_unit]
  rfl

/-- A read of STATUS answers the flags as it leaves them (R123). -/
theorem answered_transact_rdStatus (s : State) : (s.transact .rdStatus).answered (s.transact .rdStatus).unit.status :=
  rfl

/-- A run over the operations of validation ends in the validated unit and answers its STATUS (R145). -/
theorem run_validateOps (s : State) (ty : ChunkType) (data : List Byte) (rest : List HostEvent) : ∃ t,
    run (validateOps ty data w).length { s with pending := hostEvents (validateOps ty data w) ++ rest } = .next t ∧
    t.unit = s.unit.validated (crcInput ty data) w ∧ t.answered t.unit.status := by
  obtain ⟨fs, hops, hbytes⟩ := exists_feeds_of_validateOps ty data w
  refine ⟨_, run_hostEvents s rest hops (validationInstrs_wf fs w), ?_, ?_⟩
  · rw [foldl_transact_unit, foldl_transact_validation, hbytes]
  · rw [validationInstrs, List.foldl_cons, List.foldl_append]
    exact answered_transact_rdStatus _

end Validated

end Sys2Proof.Machine

open Sys2Proof Sys2Proof.Machine

/-! ## The statements -/

/-- Settles O12: an encoding holds its instruction's operands in the fields that the decoder takes them from. -/
theorem decodeOfEncodeIsIdentity : Obligations.DecodeOfEncodeIsIdentity :=
  fun _ => decode_encode

/-- Settles O10: for each answer of the decoder, its mnemonic is the one at the end of the tests that lead to it. -/
theorem decodeFollowsTheOrderOfTests : Obligations.DecodeFollowsTheOrderOfTests := by
  intro d
  obtain ⟨hs, h⟩ | ⟨hs, h⟩ | ⟨hs, h⟩ | ⟨hs, htests⟩ := decode_cases d
  iterate 3 · simp [h, hs, Instr.mnemonic]
  change _ = if fieldSIZE d ≠ 0b10#2 then _ else if addrLow (fieldADDR d) ≠ 0b00#2 then _ else _
  obtain ⟨ha, h⟩ | ⟨ha, h⟩ | ⟨ha, h⟩ | ⟨ha, h⟩ | ⟨r, ha, ⟨hwe, h⟩ | ⟨hwe, h⟩⟩ := htests
  iterate 4 · simp [h, hs, ha, Instr.mnemonic]
  · simp [h, hs, ha, hwe, r.offset_ne_reserved, mnemonic_decodeRead]
  · simp [h, hs, ha, hwe, r.offset_ne_reserved, mnemonic_decodeWrite, mnemonic_decodeCommand]

/-- Settles O11: the first row that matches is found by the decoder's own tests, and a row has its constructor's
mnemonic. -/
theorem decoderAgreesWithTheOpcodeTable : Obligations.DecoderAgreesWithTheOpcodeTable :=
  fun d => ⟨tableRow_eq d, row_map_mnemonic (decode d)⟩

/-- Settles O13: the canonical descriptor is the encoding of a well-formed instruction, so it decodes to it. -/
theorem encodeOfDecodeClearsOnlyIgnoredBits : Obligations.EncodeOfDecodeClearsOnlyIgnoredBits := by
  refine fun d => ⟨encode_decode d, ?_, decode_wf d, canonical_of_kept⟩
  rw [← encode_decode, decode_encode (decode_wf d)]

/-- Settles O51: the operations are feeds of the bytes in order, and a feed of a word leaves what the four byte writes
leave. -/
theorem feedExpansionEqualsByteWrites : Obligations.FeedExpansionEqualsByteWrites := by
  intro bs
  obtain ⟨hwords, hbytes, hlen⟩ := feedOps_counts bs
  refine ⟨hwords, hbytes, hlen, fun s rest => ?_⟩
  obtain ⟨fs, hops, hfed⟩ := exists_feeds_of_feedOps bs
  have hbyteRun := run_instrEvents s rest (is := (bs.map Feed.byte).map Feed.instr) (by simp)
  rw [← feedEvents_eq, List.length_map, List.length_map] at hbyteRun
  refine ⟨_, _, run_hostEvents s rest hops (by simp), hbyteRun, foldl_transact_feeds_congr ?_⟩
  rw [hfed, List.flatMap_map]
  exact (List.flatMap_singleton' bs).symm

/-- Settles O53: the run answers STATUS after CHECK, with DONE set and MATCH as the comparison of the crc field with
the crc of the bytes fed; the other two flags are 0 since INIT while COUNT has not wrapped. -/
theorem validationDecidesTheChunkCrc : Obligations.ValidationDecidesTheChunkCrc := by
  intro s ty data crcfd rest
  obtain ⟨t, hrun, hunit, hans⟩ := run_validateOps crcfd s ty data rest
  refine ⟨t, _, hrun, hans, ?_, ?_, ?_, fun hlen hcrc => ?_⟩
  · simp [hunit, UnitState.status_low_validated]
  · simp [hunit, UnitState.status_low_validated]
  · simp [hunit, verdictOf_status]
  · have hfits : (crcInput ty data).length < 2 ^ 32 := by rwa [crcInput, List.length_append]
    rw [hunit, UnitState.status_validated hfits hcrc]

/-- Settles O9: the decoder computes each of them. -/
theorem wordsFromTheSpecDecode : Obligations.WordsFromTheSpecDecode := by
  unfold Obligations.WordsFromTheSpecDecode
  decide

/-- Settles O31: every instruction has a next state, and its response is the unit's answer, which holds the value of the
register that the instruction reads, if it reads one. -/
theorem everyTransactionIsAnswered : Obligations.EveryTransactionIsAnswered := by
  refine fun i s => ⟨_, exec_eq_transact s i, ?_⟩
  rw [State.transact_response, UnitState.answer]
  cases readRegOf i <;> rfl
end

section
/-! Proofs for 40_crc_core.md: eight shift steps take in one byte of a word and shift the rest down, which gives the
table form and the residue; the fold over a message is linear in state and bytes together, and one-to-one. -/

namespace Sys2Proof.Machine

/-! ## The byte and the table (R91, R93) -/

theorem xor_xor_xor_cancel (x y z : Word) : (x ^^^ z) ^^^ (y ^^^ z) = x ^^^ y := by
  have hz : (x ^^^ z) ^^^ (y ^^^ z) = x ^^^ y ^^^ (z ^^^ z) := by ac_rfl
  rw [hz, BitVec.xor_self, BitVec.xor_zero]

theorem setWidth_ushiftRight_byte (b : Byte) : (b.setWidth 32 : Word) >>> 8 = 0#32 := by
  apply BitVec.eq_of_getLsbD_eq
  intro i _
  simp

/-- Eight shift steps take in the low byte of a word as one byte and only shift the rest of it down (R91). -/
theorem crcShifts_xor_word (s w : Word) :
    crcShifts 8 (s ^^^ w) = crcUpdateByte s (w.setWidth 8) ^^^ (w >>> 8) := by
  have hlow : ∀ i < 8, (w ^^^ (w.setWidth 8).setWidth 32).getLsbD i = false := by
    intro i hi
    simp [hi, Nat.lt_trans hi (by decide : 8 < 32)]
  have hhigh : crcShifts 8 (w ^^^ (w.setWidth 8).setWidth 32) = w >>> 8 := by
    rw [crcShifts_of_low_clear 8 _ hlow, BitVec.ushiftRight_xor_distrib, setWidth_ushiftRight_byte, BitVec.xor_zero]
  rw [crcUpdateByte, ← hhigh, ← crcShifts_xor, xor_xor_xor_cancel]

/-- The table form computes the update function: the table holds what the shifted-out byte adds (R93). -/
theorem crcUpdateByteByTable_eq (s : Word) (b : Byte) : crcUpdateByteByTable s b = crcUpdateByte s b := by
  have hhigh : (s ^^^ b.setWidth 32) >>> 8 = s >>> 8 := by
    rw [BitVec.ushiftRight_xor_distrib, setWidth_ushiftRight_byte, BitVec.xor_zero]
  calc crcUpdateByteByTable s b
      = crcTable ((s ^^^ b.setWidth 32).setWidth 8) ^^^ (s ^^^ b.setWidth 32) >>> 8 := by
        rw [hhigh, BitVec.xor_comm, crcUpdateByteByTable]
    _ = crcShifts 8 (0#32 ^^^ (s ^^^ b.setWidth 32)) := (crcShifts_xor_word ..).symm
    _ = crcUpdateByte s b := by rw [BitVec.zero_xor, crcUpdateByte]

/-! ## Bit reversal (R90) -/

theorem reverse_xor (x y : Word) : (x ^^^ y).reverse = x.reverse ^^^ y.reverse := by
  apply BitVec.eq_of_getLsbD_eq
  simp [BitVec.getLsbD_reverse]

theorem reverse_ushiftRight_one (x : Word) : (x >>> 1).reverse = x.reverse <<< 1 := by
  apply BitVec.eq_of_getLsbD_eq
  intro i hi
  simp only [BitVec.getLsbD_reverse, BitVec.getMsbD_ushiftRight, BitVec.getLsbD_shiftLeft]
  simp [hi]

theorem crcPolyR_eq_reverse : crcPolyR = crcPoly.reverse := by decide +kernel

/-- "S is held reflected": the reversal of a shift step is the unreflected step of the reversal (R90). -/
theorem reverse_crcShift (s : Word) : (crcShift s).reverse = crcShiftNormal s.reverse := by
  rw [crcShift, crcShiftNormal, BitVec.msb_reverse]
  split
  · rw [reverse_xor, reverse_ushiftRight_one, crcPolyR_eq_reverse, BitVec.reverse_reverse_eq]
  · exact reverse_ushiftRight_one s

/-! ## The residue (R90) -/

/-- Feeding a word's four bytes, least significant first, is 32 shift steps of the state XOR the word. -/
theorem crcFold_leBytes (s w : Word) : crcFold s (leBytes w) = crcShifts 32 (s ^^^ w) := by
  have hbyte (k : Nat) : (w >>> k).setWidth 8 = w.extractLsb' k 8 := by
    apply BitVec.eq_of_getLsbD_eq
    intro i hi
    simp [hi]
  have hnext (n k : Nat) (t : Word) : crcShifts (8 + n) (t ^^^ w >>> k) =
      crcShifts n (crcUpdateByte t (w.extractLsb' k 8) ^^^ w >>> (k + 8)) := by
    rw [crcShifts_add, crcShifts_xor_word, hbyte, BitVec.shiftRight_add]
  symm
  calc crcShifts 32 (s ^^^ w)
      = crcShifts (8 + 24) (s ^^^ w >>> 0) := by rw [BitVec.ushiftRight_zero]
    _ = crcFold s (leBytes w) ^^^ w >>> 32 := by
        rw [hnext 24, hnext 16 8, hnext 8 16, hnext 0 24]; rfl
    _ = crcFold s (leBytes w) := by rw [BitVec.ushiftRight_eq_zero (by decide), BitVec.xor_zero]

/-- The state cancels against the crc that it made, and 32 steps of the final XOR are left (R90). -/
theorem crcState_append_leBytes_crc (m : List Byte) : crcState (m ++ leBytes (crc m)) = crcResidue := by
  have hcancel : crcState m ^^^ crc m = crcFinalXor := by
    rw [crc, ← BitVec.xor_assoc, BitVec.xor_self, BitVec.zero_xor]
  calc crcState (m ++ leBytes (crc m))
      = crcFold (crcState m) (leBytes (crc m)) := crcFold_append ..
    _ = crcShifts 32 crcFinalXor := by rw [crcFold_leBytes, hcancel]
    _ = crcResidue := by decide +kernel

/-! ## Linearity and single bits (R98, R99) -/

theorem crcUpdateByte_xor (s t : Word) (a b : Byte) :
    crcUpdateByte (s ^^^ t) (a ^^^ b) = crcUpdateByte s a ^^^ crcUpdateByte t b := by
  simp only [crcUpdateByte, BitVec.setWidth_xor, ← crcShifts_xor]
  congr 1
  ac_rfl

/-- The fold is linear in the state and the bytes together (R98). -/
theorem crcFold_xorBytes (s t : Word) {a b : List Byte} (h : a.length = b.length) :
    crcFold (s ^^^ t) (xorBytes a b) = crcFold s a ^^^ crcFold t b := by
  induction a generalizing s t b with
  | nil =>
    obtain rfl := List.length_eq_zero_iff.mp h.symm
    rfl
  | cons x a ih =>
    cases b with
    | nil => cases h
    | cons y b =>
      have htail := ih (crcUpdateByte s x) (crcUpdateByte t y) (Nat.succ.inj h)
      rwa [← crcUpdateByte_xor] at htail

theorem xorBytes_length {a b : List Byte} (h : a.length = b.length) : (xorBytes a b).length = a.length := by
  simp [xorBytes, h]

theorem xorBytes_zeros (m : List Byte) : xorBytes m (List.replicate m.length 0x00#8) = m := by
  induction m with
  | nil => rfl
  | cons b m ih => exact congrArg₂ List.cons BitVec.xor_zero ih

/-- The initial S and the final XOR cancel in the XOR of two crcs: what is left is linear (R98). -/
theorem crc_xor_crc {a b : List Byte} (h : a.length = b.length) :
    crc a ^^^ crc b = crcFold 0#32 (xorBytes a b) := by
  rw [crc, crc, xor_xor_xor_cancel, crcState, crcState, ← crcFold_xorBytes _ _ h, BitVec.xor_self]

theorem crcUpdateByte_byte_injective {s : Word} {b c : Byte} (h : crcUpdateByte s b = crcUpdateByte s c) : b = c := by
  have hword : (b.setWidth 32 : Word) = c.setWidth 32 := (BitVec.xor_right_inj s).mp (crcShifts_injective 8 h)
  simpa using congrArg (BitVec.setWidth 8) hword

/-- Changing one byte of a message changes the state after it: the states differ after that byte, and the bytes that
follow keep them apart (R99). -/
theorem crcFold_modify_ne {f : Byte → Byte} (hf : ∀ b, f b ≠ b) (s : Word) {m : List Byte} {i : Nat}
    (hi : i < m.length) : crcFold s (m.modify i f) ≠ crcFold s m := by
  induction m generalizing s i with
  | nil => cases hi
  | cons b m ih =>
    cases i with
    | zero => exact fun h => hf b (crcUpdateByte_byte_injective (crcFold_injective m h))
    | succ i => exact ih (crcUpdateByte s b) (Nat.lt_of_succ_lt_succ hi)

theorem flipBit_ne (b : Byte) {k : Nat} (hk : k < 8) : flipBit b k ≠ b := by
  intro h
  have hbit := congrArg (fun x : Byte => x.getLsbD k) h
  simp [flipBit, hk] at hbit

/-! ## A stream from its start (R94) -/

/-- INIT and the reset input both leave the initial S and a COUNT of 0 (R110, R180). -/
theorem step_starts_stream (s : State) (rest : List HostEvent) {e : HostEvent}
    (h : e = .reset ∨ e = .transaction 0xC000000001#40) : ∃ t : State,
    step { s with pending := e :: rest } = .next { t with pending := rest } ∧
    t.unit.regS = crcInitial ∧ t.unit.count = 0#32 := by
  obtain rfl | rfl := h
  · exact ⟨s.applyReset, rfl, rfl, rfl⟩
  · exact ⟨s.transact .init,
      (step_of_deliver_transaction s rest rfl).trans (exec_eq_transact ..), rfl, rfl⟩

end Sys2Proof.Machine

open Sys2Proof Sys2Proof.Machine

/-! ## The statements -/

/-- Settles O42: the byte shifted out of S selects what the table adds. -/
theorem tableFormEqualsBitwiseForm : Obligations.TableFormEqualsBitwiseForm :=
  ⟨crcUpdateByteByTable_eq, by decide +kernel⟩

/-- Settles O43: reversal turns the shift around, the low bit into the top one and POLY_R into the polynomial. -/
theorem reflectedShiftIsTheNormalShiftReversed : Obligations.ReflectedShiftIsTheNormalShiftReversed :=
  ⟨crcPolyR_eq_reverse, reverse_crcShift⟩

/-- Settles O44: four bytes of the crc, least significant first, are 32 steps of S XOR the crc, which is constant. -/
theorem residueAfterLittleEndianCrc : Obligations.ResidueAfterLittleEndianCrc :=
  crcState_append_leBytes_crc

/-- Settles O45: the empty message, whose crc is 0, ends in another state than "123456789" does. -/
theorem noResidueAfterBigEndianCrc : Obligations.NoResidueAfterBigEndianCrc := by
  refine ⟨by decide +kernel, ?_⟩
  rintro ⟨r, hr⟩
  have hne : crcState ([] ++ beBytes (crc [])) ≠
      crcState ([0x31#8, 0x32#8, 0x33#8, 0x34#8, 0x35#8, 0x36#8, 0x37#8, 0x38#8, 0x39#8] ++
        beBytes (crc [0x31#8, 0x32#8, 0x33#8, 0x34#8, 0x35#8, 0x36#8, 0x37#8, 0x38#8, 0x39#8])) := by
    decide +kernel
  exact hne ((hr _).trans (hr _).symm)

/-- Settles O46: the crcs of `a` and `b` leave the fold of `a XOR b` from 0, and the crc of `0^n` brings in the initial
S and the final XOR. -/
theorem crcIsAffine : Obligations.CrcIsAffine := by
  intro a b h
  have hlen := xorBytes_length h
  calc crc (xorBytes a b)
      = crcFold (0#32 ^^^ crcInitial) (xorBytes (xorBytes a b) (List.replicate a.length 0x00#8)) ^^^ crcFinalXor := by
        rw [← hlen, xorBytes_zeros, BitVec.zero_xor]; rfl
    _ = crcFold 0#32 (xorBytes a b) ^^^ crc (List.replicate a.length 0x00#8) := by
        rw [crcFold_xorBytes _ _ (by simp [hlen]), BitVec.xor_assoc]; rfl
    _ = crc a ^^^ crc b ^^^ crc (List.replicate a.length 0x00#8) := by rw [crc_xor_crc h]

/-- Settles O47: the flipped byte differs, so S differs after the message, and the final XOR loses nothing. -/
theorem flippingAnyBitChangesTheCrc : Obligations.FlippingAnyBitChangesTheCrc :=
  fun _ _ _ hi hk h => crcFold_modify_ne (fun b => flipBit_ne b hk) crcInitial hi ((BitVec.xor_left_inj _).mp h)

/-- Settles O50: the first step leaves the initial S and COUNT 0, and the feeds fold their bytes in from there. -/
theorem streamAfterInitOrReset : Obligations.StreamAfterInitOrReset := by
  intro s e fs rest he
  obtain ⟨u, hstep, hS, hcount⟩ := step_starts_stream s (feedEvents fs ++ rest) he
  obtain ⟨t, hrun, -, -, hunit⟩ := anyGroupingFeedsTheSameStream u fs rest
  have hstate : t.unit.regS = crcState (fs.flatMap Feed.bytes) := by rw [hunit, hS, crcState]
  refine ⟨t, ?_, hstate, by rw [UnitState.read_result, hstate, crc], by simp [hunit, hcount]⟩
  rw [Nat.add_comm, run_succ _ hstep, hrun]

/-- Settles O41: the model computes each of them. -/
theorem crcReferenceValues : Obligations.CrcReferenceValues := by
  unfold Obligations.CrcReferenceValues
  decide +kernel
end

section
/-! Proofs for 41_operations.md: which descriptors each row of the opcode table takes, and each transaction's whole next
state, read off the shared acknowledgements of writes and reads. -/

namespace Sys2Proof

/-! ## Which descriptors decode to an instruction (R79, R80) -/

section Rows
variable {d : Descriptor} {i : Instr}

/-- A descriptor lies in the row of the instruction that it decodes to. -/
theorem holds_of_decode_row {row : OpcodeRow} (h : (decode d).row = some row) : row.holds d = true :=
  List.find?_some (p := fun row : OpcodeRow => row.holds d) ((tableRow_eq d).trans h)

theorem decode_of_fieldSIZE_fieldADDR {r : Reg} (hs : fieldSIZE d = 0b10#2) (ha : fieldADDR d = r.offset) :
    decode d = decodeFields (fieldWE d) 0b10#2 r.offset (fieldWDATA d) := by
  rw [decode, hs, ha]

/-- The row of a register's read or write takes exactly the descriptors that decode to it, when WDATA does not
select among instructions. -/
theorem decode_eq_iff_of_regRow (mnemonic : String) (we : Bool) (r : Reg)
    (hrow : i.row = some (regRow mnemonic we r)) (hdec : decodeFields we 0b10#2 r.offset (fieldWDATA d) = i) :
    decode d = i ↔ d &&& 0xFF00000000#40 = mkDescriptor we 0b10#2 r.offset 0#32 := by
  constructor
  · rintro rfl
    exact (OpcodeRow.holds_iff d _).mp (holds_of_decode_row hrow)
  · intro h
    obtain ⟨hwe, hs, ha⟩ := (and_topByte d we 0b10#2 r.offset).mp h
    rw [decode_of_fieldSIZE_fieldADDR hs ha, hwe, hdec]

/-- The row of a command takes exactly its one word (R75). -/
theorem decode_eq_iff_of_commandRow (mnemonic : String) (w : Word)
    (hrow : i.row = some (commandRow mnemonic w)) (hdec : decodeCommand w = i) :
    decode d = i ↔ d &&& 0xFFFFFFFFFF#40 = encodeWrite .ctrl w := by
  constructor
  · rintro rfl
    exact (OpcodeRow.holds_iff d _).mp (holds_of_decode_row hrow)
  · intro h
    rw [← and_fullMask d, h, decode_encodeWrite]
    exact hdec

/-- The byte of FEED8 is the descriptor's lowest (R70, R76). -/
theorem fieldWDATA_low_byte (d : Descriptor) : (fieldWDATA d).extractLsb' 0 8 = d.extractLsb' 0 8 := by
  apply BitVec.eq_of_getLsbD_eq
  intro k hk
  simp [fieldWDATA]

/-- A descriptor is a write of `w` to CTRL when its top byte says so and its WDATA is `w`. -/
theorem eq_encodeWrite_ctrl (h : d &&& 0xFF00000000#40 = 0xC000000000#40) : d = encodeWrite .ctrl (fieldWDATA d) := by
  obtain ⟨hwe, hs, ha⟩ := (and_topByte d true 0b10#2 Reg.ctrl.offset).mp h
  conv_lhs => rw [← mkDescriptor_fields d, hwe, hs, ha]
  rfl

/-- The row of CTRL_ILLEGAL takes every write to CTRL; the rows of the three commands come before it (R80, R113). -/
theorem decode_eq_ctrlIllegal_iff (d : Descriptor) : decode d = .ctrlIllegal (fieldWDATA d) ↔
    d &&& 0xFF00000000#40 = 0xC000000000#40 ∧
      d ≠ encodeWrite .ctrl 0#32 ∧ d ≠ encodeWrite .ctrl 1#32 ∧ d ≠ encodeWrite .ctrl 2#32 := by
  constructor
  · intro h
    have hrow : (decode d).row = some (regRow "CTRL_ILLEGAL" true .ctrl) := by rw [h]; rfl
    refine ⟨(OpcodeRow.holds_iff d _).mp (holds_of_decode_row hrow), ?_, ?_, ?_⟩
    all_goals
      rintro rfl
      rw [decode_encodeWrite] at h
      cases h
  · rintro ⟨htop, h0, h1, h2⟩
    have hd := eq_encodeWrite_ctrl htop
    obtain ⟨hw, -⟩ | ⟨hw, -⟩ | ⟨hw, -⟩ | ⟨-, -, -, hdec⟩ := decodeCommand_cases (fieldWDATA d)
    · exact absurd (hw ▸ hd) h0
    · exact absurd (hw ▸ hd) h1
    · exact absurd (hw ▸ hd) h2
    · calc decode d = decode (encodeWrite .ctrl (fieldWDATA d)) := congrArg decode hd
        _ = .ctrlIllegal (fieldWDATA d) := (decode_encodeWrite .ctrl _).trans hdec

end Rows

/-! ## The rows of the bus errors (R129 to R131) -/

theorem Instr.mnemonic_of_not_isBusError {i : Instr} (h : i.isBusError = false) :
    i.mnemonic ≠ "BUSERR_SIZE" ∧ i.mnemonic ≠ "BUSERR_ALIGN" ∧ i.mnemonic ≠ "BUSERR_UNMAPPED" := by
  cases i
  case buserrSizeByte | buserrSizeHalf | buserrSizeReserved | buserrAlign1 | buserrAlign2 | buserrAlign3
      | buserrUnmapped => cases h
  all_goals simp [Instr.mnemonic]

/-- What the first three tests of R79 look at decides which bus error a descriptor is. -/
theorem decode_busError_mnemonic_iff (d : Descriptor) :
    ((decode d).mnemonic = "BUSERR_SIZE" ↔
      fieldSIZE d = 0b00#2 ∨ fieldSIZE d = 0b01#2 ∨ fieldSIZE d = 0b11#2) ∧
    ((decode d).mnemonic = "BUSERR_ALIGN" ↔
      fieldSIZE d = 0b10#2 ∧
        (addrLow (fieldADDR d) = 0b01#2 ∨ addrLow (fieldADDR d) = 0b10#2 ∨ addrLow (fieldADDR d) = 0b11#2)) ∧
    ((decode d).mnemonic = "BUSERR_UNMAPPED" ↔ fieldSIZE d = 0b10#2 ∧ fieldADDR d = 0x1C#5) := by
  obtain ⟨hs, h⟩ | ⟨hs, h⟩ | ⟨hs, h⟩ | ⟨hs, htests⟩ := decode_cases d
  iterate 3 · simp [h, hs, Instr.mnemonic]
  obtain ⟨ha, h⟩ | ⟨ha, h⟩ | ⟨ha, h⟩ | ⟨ha, h⟩ | ⟨r, ha, hr⟩ := htests
  iterate 3
    · have hne : fieldADDR d ≠ 0x1C#5 := fun hc => by rw [hc] at ha; cases ha
      simp [h, hs, ha, hne, Instr.mnemonic]
  · simp [h, hs, ha, Instr.mnemonic]
  · have hbus : (decode d).isBusError = false := by
      rw [← Bool.not_eq_true, decode_isBusError_iff]
      simp [hs, ha, r.offset_ne_reserved]
    obtain ⟨hsize, halign, hunmapped⟩ := Instr.mnemonic_of_not_isBusError hbus
    simp [hsize, halign, hunmapped, hs, ha, r.offset_ne_reserved]

section BusErrorRows
variable (d : Descriptor)

theorem and_sizeMask_iff (size : Size) :
    d &&& 0x6000000000#40 = mkDescriptor false size 0x00#5 0#32 ↔ fieldSIZE d = size := by
  rw [← decide_eq_true_iff (p := fieldSIZE d = size), ← sizeRow_holds]
  exact (OpcodeRow.holds_iff d (sizeRow size)).symm

theorem and_alignMask_iff (low : BitVec 2) :
    d &&& 0x6300000000#40 = mkDescriptor false 0b10#2 (mkAddr 0#3 low) 0#32 ↔
      fieldSIZE d = 0b10#2 ∧ addrLow (fieldADDR d) = low := by
  rw [← decide_eq_true_iff (p := fieldSIZE d = 0b10#2 ∧ _), ← alignRow_holds]
  exact (OpcodeRow.holds_iff d (alignRow low)).symm

theorem and_unmappedMask_iff :
    d &&& 0x7F00000000#40 = 0x5C00000000#40 ↔ fieldSIZE d = 0b10#2 ∧ fieldADDR d = 0x1C#5 := by
  rw [← decide_eq_true_iff (p := fieldSIZE d = 0b10#2 ∧ _), ← unmappedRow_holds]
  exact (OpcodeRow.holds_iff d unmappedRow).symm

end BusErrorRows

end Sys2Proof

namespace Sys2Proof.Machine

/-! ## The three kinds of answer (R71, R160) -/

section Answers
variable {i : Instr} {s : State}

theorem exec_eq_after_of_ackWrite {u : UnitState} (h : exec i s = .next (s.ackWrite u)) :
    exec i s = .next (s.after u ⟨0#32, false⟩ []) := by
  rw [h, State.ackWrite_eq_after]

theorem exec_eq_after_of_ackRead (r : Reg) (h : exec i s = .next (s.ackRead r)) :
    exec i s = .next (s.after s.unit ⟨s.unit.read r, false⟩ []) := by
  rw [h, State.ackRead_eq_after]

/-- A bus error answers (0, 1), leaves the unit and keeps the waiting events. -/
theorem exec_of_isBusError (h : i.isBusError = true) (s : State) : ∃ t, exec i s = .next t ∧
    t.unit = s.unit ∧ t.response = some ⟨0#32, true⟩ ∧ t.pending = s.pending :=
  ⟨_, exec_eq_transact s i, s.unit.transact_of_isBusError h, congrArg some (s.unit.answer_of_isBusError h), rfl⟩

end Answers

/-! ## What a transaction keeps of the unit (R21, R23, R27) -/

section Keeps
variable (u : UnitState) {i : Instr}

/-- CMDERR and CNTOVF, once set, stay set under every transaction but INIT (R27). -/
theorem UnitState.transact_keeps_sticky (hi : i ≠ .init) :
    (u.cmdErr = true → (u.transact i).cmdErr = true) ∧ (u.cntOvf = true → (u.transact i).cntOvf = true) := by
  obtain hu | ⟨rfl, -⟩ | ⟨-, hu⟩ | ⟨w, -, hu⟩ | ⟨f, -, hu⟩ | ⟨w, -, hu⟩ := u.transact_cases i
  · simp [hu]
  · exact absurd rfl hi
  · simp [hu]
  · simp [hu]
  · simp +contextual [hu, feedAll_cntOvf]
  · simp [hu]

/-- What CHECK compares is changed by a feed, an EXPECT write and INIT only (R21, R23). -/
theorem UnitState.compare_transact (hfeed : i.isFeed = false) (hexpect : ∀ w, i ≠ .wrExpect w) (hinit : i ≠ .init) :
    (u.transact i).compare = u.compare := by
  obtain hu | ⟨rfl, -⟩ | ⟨-, hu⟩ | ⟨w, -, hu⟩ | ⟨f, rfl, -⟩ | ⟨w, rfl, -⟩ := u.transact_cases i
  · rw [hu]
  · exact absurd rfl hinit
  · rw [hu]; rfl
  · rw [hu]; rfl
  · rw [f.isFeed_instr] at hfeed; cases hfeed
  · exact absurd rfl (hexpect w)

end Keeps

/-! ## CHECK (R111) -/

/-- After INIT RESULT is 0, the crc of the empty stream. -/
theorem UnitState.compare_initialise {u : UnitState} (h : u.expect = 0#32) : u.initialise.compare = true :=
  u.initialise.compare_eq_true_iff.mpr (BitVec.xor_self.trans h.symm)

/-- With no sticky flag set CHECK leaves 3 in STATUS on a match and 1 on a mismatch. -/
theorem UnitState.status_checkResult {u : UnitState} (hcmd : u.cmdErr = false) (hovf : u.cntOvf = false) :
    u.checkResult.status = if u.compare then 3#32 else 1#32 := by
  rw [status, checkResult_cntOvf, checkResult_cmdErr, checkResult_matched, checkResult_done, hcmd, hovf]
  cases u.compare <;> rfl

/-! ## The feeds (R114, R115) -/

/-- CNTOVF after one byte, as R92 writes it. -/
theorem UnitState.cntOvfNext_eq_ite (u : UnitState) :
    u.cntOvfNext = if u.count = 0xFFFFFFFF#32 then true else u.cntOvf := by
  rw [cntOvfNext]
  by_cases h : u.count = 0xFFFFFFFF#32 <;> simp [h]

/-- Four bytes wrap COUNT exactly from 0xFFFFFFFC on (R115). -/
theorem UnitState.feedAll_beBytes_cntOvf (u : UnitState) (w : Word) :
    (u.feedAll (beBytes w)).cntOvf = if 0xFFFFFFFC#32 ≤ u.count then true else u.cntOvf := by
  have hwrap : 2 ^ 32 ≤ u.count.toNat + 4 ↔ 0xFFFFFFFC#32 ≤ u.count := by
    rw [BitVec.le_def]
    exact Nat.sub_le_iff_le_add (a := 2 ^ 32) (b := 4).symm
  simp only [feedAll_cntOvf, beBytes_length, hwrap]
  by_cases h : 0xFFFFFFFC#32 ≤ u.count <;> simp [h]

/-- A feed from reset leaves the crc of its bytes in RESULT (R94). -/
theorem UnitState.read_result_feed_reset (f : Feed) : (reset.transact f.instr).read .result = crc f.bytes := by
  simp [crc, crcState, UnitState.reset, crcInitial]

end Sys2Proof.Machine

open Sys2Proof Sys2Proof.Machine

/-! ## The statements: commands -/

/-- Settles O14: INIT has the row of its one word; it writes all but EXPECT; and every other transaction keeps a sticky
flag that is set. -/
theorem initStartsAFreshComputation : Obligations.InitStartsAFreshComputation := by
  refine ⟨fun d => decode_eq_iff_of_commandRow "INIT" 1#32 rfl rfl, fun s => exec_eq_after_of_ackWrite rfl,
    fun s hs => ⟨_, rfl, ?_⟩, fun i s t h hcleared => ?_⟩
  · rw [State.ackWrite_unit, hs]; rfl
  · by_contra hi
    obtain rfl := exec_eq_next_iff.mp h
    obtain ⟨hcmdErr, hcntOvf⟩ := s.unit.transact_keeps_sticky hi
    obtain ⟨hset, hclear⟩ | ⟨hset, hclear⟩ := hcleared
    · exact Bool.noConfusion ((hcmdErr hset).symm.trans hclear)
    · exact Bool.noConfusion ((hcntOvf hset).symm.trans hclear)

/-- Settles O15: CHECK leaves what it compares, and so does a transaction that is no feed, no EXPECT write and no INIT;
after INIT both sides are 0; in the example RESULT is 0xAE426082. -/
theorem checkComparesResultWithExpect : Obligations.CheckComparesResultWithExpect := by
  refine ⟨fun d => decode_eq_iff_of_commandRow "CHECK" 2#32 rfl rfl,
    fun s => ⟨_, exec_eq_after_of_ackWrite rfl, rfl, rfl, fun i hfeed hexpect hinit => ?_⟩,
    fun s t h0 h => ?_, fun s t hS hcmd hovf h => ?_⟩
  · refine ⟨_, _, exec_eq_transact _ i, rfl, ?_⟩
    have hcompare := s.unit.checkResult.compare_transact hfeed hexpect hinit
    exact congrArg (fun m => { s.unit.checkResult.transact i with done := true, matched := m }) hcompare
  · obtain rfl := exec_eq_next_iff.mp h
    exact ⟨_, rfl, UnitState.compare_initialise h0⟩
  · obtain rfl := exec_eq_next_iff.mp h
    have hstatus := UnitState.status_checkResult hcmd hovf
    refine ⟨fun hE => hstatus.trans ?_, fun hE => hstatus.trans ?_⟩
    all_goals rw [UnitState.compare, UnitState.result, hS, hE]; rfl

/-- Settles O16: CTRL_NOP has the row of its one word, and acknowledges with the unit as it was. -/
theorem ctrlNopChangesNothing : Obligations.CtrlNopChangesNothing :=
  ⟨fun _ => decode_eq_iff_of_commandRow "CTRL_NOP" 0#32 rfl rfl, fun _ => exec_eq_after_of_ackWrite rfl⟩

/-- Settles O17: the rows of the three commands take their words before CTRL_ILLEGAL's row does. -/
theorem illegalCommandSetsOnlyCmdErr : Obligations.IllegalCommandSetsOnlyCmdErr :=
  ⟨decode_eq_ctrlIllegal_iff, fun _ _ => ⟨_, rfl, rfl, rfl, rfl⟩⟩

/-! ## The statements: feeds, EXPECT and the ignored writes -/

/-- Settles O18: FEED8 acknowledges with its byte fed and the last CHECK cleared. -/
theorem feed8FeedsOneByte : Obligations.Feed8FeedsOneByte := by
  have hupdate : crcUpdateByte 0xFFFFFFFF#32 0x00#8 = 0x2DFD1072#32 := by decide +kernel
  refine ⟨fun d => ?_, fun b s => ?_, hupdate, ?_⟩
  · exact decode_eq_iff_of_regRow "FEED8" true .data8 rfl (congrArg Instr.feed8 (fieldWDATA_low_byte d))
  · rw [← UnitState.cntOvfNext_eq_ite]
    exact exec_eq_after_of_ackWrite rfl
  · refine ⟨_, rfl, ?_, rfl⟩
    exact congrArg (fun S => S ^^^ crcFinalXor) hupdate

/-- Settles O19: FEED32 acknowledges with its four bytes fed and the last CHECK cleared, which is what FEED8 of each of
them leaves; RESULT from reset is the crc of the four bytes. -/
theorem feed32FeedsFourBytesMostSignificantFirst : Obligations.Feed32FeedsFourBytesMostSignificantFirst := by
  obtain ⟨-, -, -, -, -, hzeros, -, hIEND, -⟩ := crcReferenceValues
  refine ⟨fun d => decode_eq_iff_of_regRow "FEED32" true .data32 rfl rfl, fun w s => ?_,
    fun w s t1 t2 t3 h1 h2 h3 => ?_, ⟨_, exec_eq_transact .., ?_⟩, ⟨_, exec_eq_transact .., ?_, rfl⟩⟩
  · have hcount := s.unit.feedAll_count (beBytes w)
    rw [beBytes_length] at hcount
    rw [← UnitState.feedAll_beBytes_cntOvf, ← hcount]
    exact exec_eq_after_of_ackWrite rfl
  · obtain rfl := exec_eq_next_iff.mp h1
    obtain rfl := exec_eq_next_iff.mp h2
    obtain rfl := exec_eq_next_iff.mp h3
    rw [exec_eq_transact, exec_eq_transact]
    exact congrArg Host.Outcome.next (transact_feed_eq_bytes s (.word w)).symm
  · exact (UnitState.read_result_feed_reset (.word 0#32)).trans hzeros
  · exact (UnitState.read_result_feed_reset (.word 0x49454E44#32)).trans hIEND

/-- Settles O20: WR_EXPECT acknowledges with the word stored and the last CHECK cleared; the read answers that word. -/
theorem expectWriteStoresAndClearsTheCheck : Obligations.ExpectWriteStoresAndClearsTheCheck :=
  ⟨fun _ => decode_eq_iff_of_regRow "WR_EXPECT" true .expect rfl rfl,
    fun _ _ => ⟨_, exec_eq_after_of_ackWrite rfl, rfl, exec_eq_after_of_ackRead .expect rfl⟩⟩

/-- Settles O21: the three writes acknowledge with the unit as it was. -/
theorem writesToReadOnlyRegistersAreIgnored : Obligations.WritesToReadOnlyRegistersAreIgnored :=
  ⟨fun _ => ⟨decode_eq_iff_of_regRow "WR_STATUS" true .status rfl rfl,
      decode_eq_iff_of_regRow "WR_RESULT" true .result rfl rfl,
      decode_eq_iff_of_regRow "WR_COUNT" true .count rfl rfl⟩,
    fun _ _ => ⟨exec_eq_after_of_ackWrite rfl, exec_eq_after_of_ackWrite rfl, exec_eq_after_of_ackWrite rfl⟩⟩

/-! ## The statements: reads -/

/-- Settles O22: the three ports are read as 0. -/
theorem writeOnlyPortsReadZero : Obligations.WriteOnlyPortsReadZero :=
  ⟨fun _ => ⟨decode_eq_iff_of_regRow "RD_CTRL" false .ctrl rfl rfl,
      decode_eq_iff_of_regRow "RD_DATA8" false .data8 rfl rfl,
      decode_eq_iff_of_regRow "RD_DATA32" false .data32 rfl rfl⟩,
    fun _ => ⟨exec_eq_after_of_ackRead .ctrl rfl, exec_eq_after_of_ackRead .data8 rfl,
      exec_eq_after_of_ackRead .data32 rfl⟩⟩

/-- Settles O23: the value read is the STATUS word, whose number, high bits and twelve well-formed values are known. -/
theorem statusReadPacksTheFlags : Obligations.StatusReadPacksTheFlags :=
  ⟨fun _ => decode_eq_iff_of_regRow "RD_STATUS" false .status rfl rfl,
    fun s => ⟨s.unit.status, exec_eq_after_of_ackRead .status rfl, s.unit.status_toNat, s.unit.status_high,
      s.unit.wf_iff_status_mem⟩⟩

/-- Settles O24: the three reads answer what the register holds, RESULT being S with the final XOR. -/
theorem registerReadsReturnTheRegister : Obligations.RegisterReadsReturnTheRegister :=
  ⟨fun _ => ⟨decode_eq_iff_of_regRow "RD_EXPECT" false .expect rfl rfl,
      decode_eq_iff_of_regRow "RD_RESULT" false .result rfl rfl,
      decode_eq_iff_of_regRow "RD_COUNT" false .count rfl rfl⟩,
    fun _ => ⟨exec_eq_after_of_ackRead .expect rfl, exec_eq_after_of_ackRead .result rfl,
      exec_eq_after_of_ackRead .count rfl⟩⟩

/-! ## The statements: bus errors and the idle step -/

/-- Settles O27: the three rows are the three values of SIZE other than a word's. -/
theorem wrongSizeIsABusError : Obligations.WrongSizeIsABusError := by
  refine ⟨fun d => ?_, fun i we a w s hi => ?_⟩
  · obtain ⟨hsize, -, -⟩ := decode_busError_mnemonic_iff d
    rw [hsize, ← and_sizeMask_iff, ← and_sizeMask_iff, ← and_sizeMask_iff]
    rfl
  · obtain rfl | rfl | rfl := hi
    all_goals exact exec_of_isBusError rfl s

/-- Settles O28: the three rows are a word's SIZE with the three values of ADDR[1:0] other than 00. -/
theorem misalignedAccessIsABusError : Obligations.MisalignedAccessIsABusError := by
  refine ⟨fun d => ?_, fun i we slot w s hi => ?_⟩
  · obtain ⟨-, halign, -⟩ := decode_busError_mnemonic_iff d
    rw [halign, and_or_left, and_or_left, ← and_alignMask_iff, ← and_alignMask_iff, ← and_alignMask_iff]
    rfl
  · obtain rfl | rfl | rfl := hi
    all_goals exact exec_of_isBusError rfl s

/-- Settles O29: the row is a word's SIZE at ADDR 0x1C. -/
theorem reservedOffsetIsABusError : Obligations.ReservedOffsetIsABusError := by
  refine ⟨fun d => ?_, fun we w s => exec_of_isBusError rfl s⟩
  obtain ⟨-, -, hunmapped⟩ := decode_busError_mnemonic_iff d
  rw [hunmapped, and_unmappedMask_iff]

/-- Settles O6: with no event to take, the step answers the state it was given. -/
theorem noAutonomousActivity : Obligations.NoAutonomousActivity := step_of_no_event
end

section
/-! Proofs for 42_chunk_protocol.md: what the unit and the last response are after generation, validation and the two
reads that report a mismatch. -/

namespace Sys2Proof.Machine

/-! ## The bytes of a chunk, fed from INIT (R94, R142) -/

/-- The CRC input is the four bytes of the type and then the data (R142). -/
@[simp] theorem crcInput_length (ty : ChunkType) (data : List Byte) : (crcInput ty data).length = 4 + data.length :=
  List.length_append

section FedFromInit
variable (u : UnitState) (m : List Byte)

/-- RESULT is the crc of the bytes fed since INIT (R94). -/
theorem UnitState.result_feedAll_initialise : (u.initialise.feedAll m).result = crc m := by
  rw [result, feedAll_regS, initialise_regS, crc, crcState]

/-- COUNT is the number of bytes fed since INIT, modulo 2^32 (R22). -/
theorem UnitState.count_toNat_feedAll_initialise : (u.initialise.feedAll m).count.toNat = m.length % 2 ^ 32 := by
  rw [feedAll_count, initialise_count, BitVec.zero_add, BitVec.toNat_ofNat]

/-- CNTOVF says whether COUNT has wrapped since INIT (R22, R150). -/
theorem UnitState.cntOvf_feedAll_initialise : (u.initialise.feedAll m).cntOvf = decide (2 ^ 32 ≤ m.length) := by
  simp [feedAll_cntOvf]

end FedFromInit

/-! ## Generation (R144) -/

/-- The instructions of generation, when FEED is the feeds `fs` (R144). -/
def generationInstrs (fs : List Feed) : List Instr := .init :: (fs.map Feed.instr ++ [Instr.rdResult])

theorem generationInstrs_wf (fs : List Feed) : ∀ i ∈ generationInstrs fs, i.wf = true :=
  List.forall_mem_cons.mpr ⟨rfl, List.forall_mem_append.mpr ⟨by simp, by simp [Instr.wf]⟩⟩

theorem exists_feeds_of_generateOps (ty : ChunkType) (data : List Byte) : ∃ fs : List Feed,
    hostEvents (generateOps ty data) = instrEvents (generationInstrs fs) ∧ fs.flatMap Feed.bytes = crcInput ty data := by
  obtain ⟨fs, hfeeds, hbytes⟩ := exists_feeds_of_feedOps (crcInput ty data)
  refine ⟨fs, ?_, hbytes⟩
  have hops : generateOps ty data =
      [wrReg .ctrl 1#32] ++ (feedOps (crcInput ty data) ++ [rdReg .result]) := rfl
  have hinit : hostEvents [wrReg .ctrl 1#32] = instrEvents [.init] := rfl
  have hread : hostEvents [rdReg .result] = instrEvents [.rdResult] := rfl
  rw [hops, hostEvents_append, hostEvents_append, hinit, hfeeds, hread, ← instrEvents_append, ← instrEvents_append,
    List.singleton_append, generationInstrs]

/-- Generation feeds the unit from INIT on; its read of RESULT changes nothing (R144). -/
theorem foldl_transact_generation (u : UnitState) (fs : List Feed) :
    (generationInstrs fs).foldl UnitState.transact u = u.initialise.feedAll (fs.flatMap Feed.bytes) := by
  rw [generationInstrs, List.foldl_cons, List.foldl_append, foldl_transact_feeds_unit, UnitState.feedAll_eq,
    UnitState.feedAll_eq u.initialise]
  rfl

/-- A read of RESULT answers RESULT as it leaves it (R125). -/
theorem answered_transact_rdResult (s : State) : (s.transact .rdResult).answered (s.transact .rdResult).unit.result :=
  rfl

/-- A run over the operations of generation ends in the fed unit, answers its RESULT, and leaves the later events
waiting (R144). -/
theorem run_generateOps (s : State) (ty : ChunkType) (data : List Byte) (rest : List HostEvent) : ∃ t,
    run (generateOps ty data).length { s with pending := hostEvents (generateOps ty data) ++ rest } = .next t ∧
    t.unit = s.unit.initialise.feedAll (crcInput ty data) ∧ t.answered t.unit.result ∧ t.pending = rest := by
  obtain ⟨fs, hops, hbytes⟩ := exists_feeds_of_generateOps ty data
  refine ⟨_, run_hostEvents s rest hops (generationInstrs_wf fs), ?_, ?_, foldl_transact_pending ..⟩
  · rw [foldl_transact_unit, foldl_transact_generation, hbytes]
  · rw [generationInstrs, List.foldl_cons, List.foldl_append]
    exact answered_transact_rdResult _

/-! ## After validation (R145, R146) -/

/-- Validation takes its own operations and leaves the later events waiting (R60). -/
theorem pending_of_run_validateOps {s t : State} {ty : ChunkType} {data : List Byte} {w : Word} {rest : List HostEvent}
    (h : run (validateOps ty data w).length { s with pending := hostEvents (validateOps ty data w) ++ rest } =
      .next t) : t.pending = rest := by
  obtain ⟨fs, hops, -⟩ := exists_feeds_of_validateOps ty data w
  rw [run_hostEvents s rest hops (validationInstrs_wf fs w)] at h
  injection h with h
  rw [← h, foldl_transact_pending]

section Validated
variable (u : UnitState) (m : List Byte) (w : Word)

/-- CHECK leaves EXPECT as the host wrote it (R111). -/
theorem UnitState.validated_expect : (u.validated m w).expect = w := rfl

/-- Neither the EXPECT write nor CHECK changes S (R111, R116). -/
theorem UnitState.validated_result : (u.validated m w).result = crc m := u.result_feedAll_initialise m

/-- Neither the EXPECT write nor CHECK changes COUNT (R111, R116). -/
theorem UnitState.validated_count : (u.validated m w).count = (u.initialise.feedAll m).count := rfl

end Validated

/-- The two reads that report a mismatch answer EXPECT and then RESULT (R146). -/
theorem run_mismatchOps {s : State} (h : s.pending = hostEvents mismatchOps) :
    (∃ t, run 1 s = .next t ∧ t.answered s.unit.expect) ∧ (∃ t, run 2 s = .next t ∧ t.answered s.unit.result) := by
  have hs : s = { s with pending := instrEvents [.rdExpect, .rdResult] ++ [] } := by
    rw [List.append_nil, show instrEvents [.rdExpect, .rdResult] = hostEvents mismatchOps from rfl, ← h]
  rw [hs]
  exact ⟨⟨_, run_instrEvents s (instrEvents [.rdResult]) (is := [.rdExpect]) (by simp [Instr.wf]), rfl⟩,
    ⟨_, run_instrEvents s [] (is := [.rdExpect, .rdResult]) (by simp [Instr.wf]), rfl⟩⟩

end Sys2Proof.Machine

open Sys2Proof Sys2Proof.Machine

/-! ## The statements -/

/-- Settles O52: the run answers RESULT, which is the crc of the bytes fed since its INIT. -/
theorem generationReadsTheChunkCrc : Obligations.GenerationReadsTheChunkCrc := by
  intro s ty data rest
  obtain ⟨t, hrun, hunit, hans, hpending⟩ := run_generateOps s ty data rest
  rw [hunit, UnitState.result_feedAll_initialise] at hans
  exact ⟨t, hrun, hans, hpending⟩

/-- Settles O54: EXPECT holds the crc field since its write, and RESULT the crc of the bytes fed; the reads answer
both. -/
theorem mismatchReportsProvidedAndComputed : Obligations.MismatchReportsProvidedAndComputed := by
  intro s ty data crcfd
  obtain ⟨t, hrun, hunit, -⟩ := run_validateOps crcfd s ty data (hostEvents mismatchOps)
  have hreads := run_mismatchOps (pending_of_run_validateOps hrun)
  rw [hunit, UnitState.validated_expect, UnitState.validated_result] at hreads
  rw [hostEvents_append]
  exact ⟨t, hrun, hreads⟩

/-- Settles O55: both procedures feed the 4 + L bytes from INIT, and nothing that follows the feeds changes COUNT or
CNTOVF. -/
theorem countAfterTheFeedsIsTheInputLength : Obligations.CountAfterTheFeedsIsTheInputLength := by
  intro s ty data crcfd ops rest hops
  obtain rfl | rfl := hops
  · obtain ⟨t, hrun, hunit, -⟩ := run_generateOps s ty data rest
    refine ⟨t, hrun, ?_, ?_⟩
    · rw [hunit, UnitState.count_toNat_feedAll_initialise, crcInput_length]
    · rw [hunit, UnitState.cntOvf_feedAll_initialise, crcInput_length, decide_eq_true_iff]
  · obtain ⟨t, hrun, hunit, -⟩ := run_validateOps crcfd s ty data rest
    refine ⟨t, hrun, ?_, ?_⟩
    · rw [hunit, UnitState.validated_count, UnitState.count_toNat_feedAll_initialise, crcInput_length]
    · rw [hunit, UnitState.validated_cntOvf, crcInput_length, decide_eq_true_iff]

/-- Settles O56: generation answers the crc of the chunk's bytes, which is what validation compares with. -/
theorem generatedCrcValidates : Obligations.GeneratedCrcValidates := by
  intro s s' ty data rest rest' _
  obtain ⟨t, hrun, hans, -⟩ := generationReadsTheChunkCrc s ty data rest
  obtain ⟨t', st, hrun', hans', hvalid, -⟩ :=
    validationDecidesTheChunkCrc s' ty data (crc (crcInput ty data)) rest'
  exact ⟨t, _, t', st, hrun, hans, hrun', hans', hvalid.mpr rfl⟩
end

section
/-! Proofs for 60_exceptions.md: which transactions produce each condition, and that a flag is set under its condition
only; and that every step goes on and keeps the record of the host run's faults. -/

namespace Sys2Proof.Machine

/-! ## Which transactions produce each condition (R161) -/

section Conditions
variable (i : Instr) (u : UnitState)

/-- The bus error conditions are those of the bus errors (R161 codes 1 to 3). -/
theorem conditionOf_isBusError_iff :
    (∃ c, conditionOf i u = some c ∧ c.isBusError = true) ↔ i.isBusError = true := by
  cases i
  case feed8 | feed32 | check => simp only [conditionOf]; split <;> simp [Condition.isBusError, Instr.isBusError]
  all_goals simp [conditionOf, Condition.isBusError, Instr.isBusError]

/-- An illegal command is the only cause of CMDERR (R162). -/
theorem conditionOf_eq_cmdErr_iff : conditionOf i u = some .cmdErr ↔ ∃ w, i = .ctrlIllegal w := by
  cases i
  case feed8 | feed32 | check => simp only [conditionOf]; split <;> simp
  all_goals simp [conditionOf]

/-- A feed reports CNTOVF when its bytes wrap COUNT, whichever of the two writes it is (R92, R115). -/
theorem conditionOf_feed (f : Feed) :
    conditionOf f.instr u = if 2 ^ 32 ≤ u.count.toNat + f.bytes.length then some .cntOvf else none := by
  cases f with
  | byte b =>
    have hwrap : u.count = 0xFFFFFFFF#32 ↔ 2 ^ 32 ≤ u.count.toNat + (Feed.byte b).bytes.length := by
      have hlt := u.count.isLt
      rw [← BitVec.toNat_inj, BitVec.toNat_ofNat, Feed.bytes, List.length_singleton]
      omega
    exact if_congr hwrap rfl rfl
  | word w =>
    have hwrap : 0xFFFFFFFC#32 ≤ u.count ↔ 2 ^ 32 ≤ u.count.toNat + (Feed.word w).bytes.length := by
      rw [BitVec.le_def, BitVec.toNat_ofNat, Feed.bytes, beBytes_length]
      omega
    exact if_congr hwrap rfl rfl

/-- A feed that wraps COUNT is the only cause of CNTOVF (R163). -/
theorem conditionOf_eq_cntOvf_iff :
    conditionOf i u = some .cntOvf ↔ ∃ f : Feed, i = f.instr ∧ 2 ^ 32 ≤ u.count.toNat + f.bytes.length := by
  constructor
  · intro h
    have of_feed (f : Feed) (hf : conditionOf f.instr u = some .cntOvf) :
        2 ^ 32 ≤ u.count.toNat + f.bytes.length := by
      by_contra hwrap
      rw [conditionOf_feed, if_neg hwrap] at hf
      cases hf
    cases i
    case feed8 b => exact ⟨.byte b, rfl, of_feed _ h⟩
    case feed32 w => exact ⟨.word w, rfl, of_feed _ h⟩
    case check => simp only [conditionOf] at h; split at h <;> cases h
    all_goals cases h
  · rintro ⟨f, rfl, hwrap⟩
    rw [conditionOf_feed, if_pos hwrap]

/-- A CHECK that finds RESULT and EXPECT different is the only cause of a mismatch (R164). -/
theorem conditionOf_eq_mismatch_iff : conditionOf i u = some .mismatch ↔ i = .check ∧ u.compare = false := by
  cases i
  case check => simp [conditionOf, UnitState.compare]
  case feed8 | feed32 => simp only [conditionOf]; split <;> simp
  all_goals simp [conditionOf]

end Conditions

/-! ## A flag is set under its condition only (R162, R163) -/

section Flags
variable {u : UnitState} {i : Instr}

theorem UnitState.ctrlIllegal_of_sets_cmdErr (hset : (u.transact i).cmdErr = true) (hclear : u.cmdErr = false) :
    ∃ w, i = .ctrlIllegal w := by
  obtain hu | ⟨-, hu⟩ | ⟨-, hu⟩ | ⟨w, hi, -⟩ | ⟨f, -, hu⟩ | ⟨w, -, hu⟩ := u.transact_cases i
  case inr.inr.inr.inl => exact ⟨w, hi⟩
  all_goals simp [hu, hclear] at hset

theorem UnitState.feed_wraps_of_sets_cntOvf (hset : (u.transact i).cntOvf = true) (hclear : u.cntOvf = false) :
    ∃ f : Feed, i = f.instr ∧ 2 ^ 32 ≤ u.count.toNat + f.bytes.length := by
  obtain hu | ⟨-, hu⟩ | ⟨-, hu⟩ | ⟨w, -, hu⟩ | ⟨f, hi, hu⟩ | ⟨w, -, hu⟩ := u.transact_cases i
  case inr.inr.inr.inr.inl =>
    rw [hu, clearCheck_cntOvf, feedAll_cntOvf, hclear, Bool.false_or, decide_eq_true_iff] at hset
    exact ⟨f, hi, hset⟩
  all_goals simp [hu, hclear] at hset

end Flags

/-! ## A step with an event waiting (R11, R168) -/

theorem step_of_deliver_reset (s : State) (rest : List HostEvent) {e : HostEvent} (h : e.deliver = .reset) :
    step { s with pending := e :: rest } = .next ({ s with pending := rest } : State).applyReset := by
  rw [step_cons, h]

/-- Whatever arrives at the unit, the event is taken and the record of faults is only added to (D25). -/
theorem step_of_waiting_event (s : State) (rest : List HostEvent) (e : HostEvent) : ∃ t,
    step { s with pending := e :: rest } = .next t ∧ t.pending = rest ∧ s.faults <+: t.faults := by
  cases h : e.deliver with
  | transaction d =>
    exact ⟨_, (step_of_deliver_transaction s rest h).trans (exec_eq_transact ..), rfl, ⟨_, rfl⟩⟩
  | reset => exact ⟨_, step_of_deliver_reset s rest h, rfl, ⟨[], List.append_nil _⟩⟩
  | notForUnit => exact ⟨_, step_of_deliver_notForUnit s rest h, rfl, ⟨[], List.append_nil _⟩⟩

end Sys2Proof.Machine

open Sys2Proof Sys2Proof.Machine

/-! ## The statements -/

/-- Settles O32: each condition has the transactions that produce it, and those are the ones whose response has err = 1
or that set the condition's flag; a feed that wraps COUNT leaves it less than before. -/
theorem conditionsAreReportedWhereTheyArise : Obligations.ConditionsAreReportedWhereTheyArise := by
  intro i s
  refine ⟨_, _, exec_eq_transact s i, rfl, ?_, fun ⟨hset, hclear⟩ => ?_, fun h => ?_, fun ⟨hset, hclear⟩ => ?_,
    fun h => ?_, ?_, rfl⟩
  · rw [UnitState.answer_err, conditionOf_isBusError_iff]
  · exact (conditionOf_eq_cmdErr_iff i s.unit).mpr (UnitState.ctrlIllegal_of_sets_cmdErr hset hclear)
  · obtain ⟨w, rfl⟩ := (conditionOf_eq_cmdErr_iff i s.unit).mp h
    exact ⟨rfl, rfl⟩
  · exact (conditionOf_eq_cntOvf_iff i s.unit).mpr (UnitState.feed_wraps_of_sets_cntOvf hset hclear)
  · obtain ⟨f, rfl, hwrap⟩ := (conditionOf_eq_cntOvf_iff i s.unit).mp h
    rw [State.transact_unit, UnitState.transact_feed, UnitState.clearCheck_cntOvf, UnitState.feedAll_cntOvf,
      decide_eq_true hwrap, Bool.or_true]
    exact ⟨rfl, UnitState.feedAll_count_lt f.bytes_length_lt hwrap⟩
  · rw [conditionOf_eq_mismatch_iff]
    refine and_congr_right fun hi => ?_
    obtain rfl := hi
    exact (and_iff_right rfl).symm

/-- Settles O7: with no event waiting the step keeps the state; a waiting event is taken, and what of it arrives at the
unit only adds to the record. -/
theorem everyStepGoesOnAndKeepsTheRecord : Obligations.EveryStepGoesOnAndKeepsTheRecord := by
  intro s
  cases hp : s.pending with
  | nil => exact ⟨s, step_of_no_event s hp, hp, ⟨[], List.append_nil _⟩⟩
  | cons e rest =>
    have hs : s = { s with pending := e :: rest } := by rw [← hp]
    rw [hs]
    exact step_of_waiting_event s rest e
end

section
/-! Proofs for 70_reset_and_hazards.md: what the reset input leaves, how it differs from INIT, and that the order of feeds
matters. -/

namespace Sys2Proof.Machine

/-- INIT writes the reset value into every register of the unit but EXPECT (R37, R110). -/
theorem UnitState.reset_eq_initialise (u : UnitState) : reset = { u.initialise with expect := 0#32 } := rfl

end Sys2Proof.Machine

open Sys2Proof Sys2Proof.Machine

/-! ## The statements -/

/-- Settles O3: INIT leaves all of the reset state but EXPECT; and a reset starts a stream, whose crc RESULT holds after
the feeds. -/
theorem resetAndInitDifferOnlyInExpect : Obligations.ResetAndInitDifferOnlyInExpect := by
  refine ⟨fun s => ⟨_, exec_eq_transact s .init, s.unit.reset_eq_initialise, s.unit.initialise_expect⟩,
    fun s fs rest => ?_⟩
  obtain ⟨t, hrun, -, hresult, -⟩ := streamAfterInitOrReset s .reset fs rest (.inl rfl)
  exact ⟨t, hrun, hresult⟩

/-- Settles O2: the reset event is delivered as the reset input, which leaves the values of R37 in the unit. -/
theorem resetEventSetsEveryRegister : Obligations.ResetEventSetsEveryRegister :=
  fun s rest => ⟨_, step_of_deliver_reset s rest rfl, State.applyReset_pending _, State.applyReset_unit _⟩

/-- Settles O48: the model computes both values. -/
theorem orderOfFeedsMatters : Obligations.OrderOfFeedsMatters := by
  unfold Obligations.OrderOfFeedsMatters
  decide +kernel
end
